-- ==== Sys2Proof/Word.lean ====
section
/-! DEFINITION. Bytes, 32-bit words, complex samples, and the sparse lists of cells behind `MEM` and `OUT`. -/

namespace Sys2Proof

/-- A byte is 8 bits, bit 0 the least significant (R10). -/
abbrev Byte := BitVec 8

/-- A 32-bit word: a register as read by CS.RDREG (R32), a command's `ARG` (R110), a binary32 pattern (R105). -/
abbrev Word := BitVec 32

/-- One complex sample, an ordered pair of IEEE-754 binary32 patterns (R13, R105). -/
structure Sample where
  /-- the real (in-phase) component -/
  re : Word
  /-- the imaginary (quadrature) component -/
  im : Word
deriving DecidableEq, Repr

/-- Sparse data by address, kept with strictly rising addresses. -/
abbrev Cells (α : Type) := List (Nat × α)

end Sys2Proof
end

