-- ==== Sys2Proof/Config.lean ====
section
/-! DEFINITION. The parameters of the block (R8) and the free values the spec leaves without a value. -/

namespace Sys2Proof.Config

/-- One less than the block's capacity. No value is given anywhere (R8, D6, N3). -/
opaque capacityPred : Nat

/-- The capacity `C` the block is built with: some integer `≥ 1`, of which nothing else is known (R8, R9). Log 1. -/
def capacity : Nat := capacityPred + 1

/-- What the `i`-th byte of `MEM` holds while nothing has written it since the `epoch`-th reset: any value (R24, R44, U8). Log 7. -/
opaque unwrittenByte (epoch i : Nat) : Byte

/-- The 32-bit response for a count of `2^32` or more, which the spec does not state (R32, R115, R155). Log 11. -/
opaque wideRead (n : Nat) : Word

/-- What lies at frame offset `i` beyond the captured bytes: no rule reads it (R61, R131). Log 17. -/
opaque beyondFrame (i : Nat) : Byte

/-- `MAXCAP`, the largest captured length and the largest `LEN` (R8, R61, R110). -/
abbrev maxCap : Nat := 65535

/-- `NCH_MIN`, the smallest channel count (R8). -/
abbrev nchMin : Nat := 1

/-- `NCH_MAX`, the largest channel count (R8). -/
abbrev nchMax : Nat := 4

/-- `ITEM_SIZE`, bytes per complex sample per channel at the output; register 5 (R8, R32, U1). -/
abbrev itemSize : Nat := 8

/-- `ETH_HLEN`, the offset of the first IP byte in a frame (R8, R90). -/
abbrev ethHlen : Nat := 14

/-- `ETHERTYPE_IPV4` (R8, R92). -/
abbrev ethertypeIpv4 : Nat := 0x0800

/-- `UDP_HLEN`, the length of the UDP header (R8, R95). -/
abbrev udpHlen : Nat := 8

/-- The largest value of the overflow counter, `2^W_OVF - 1` with `W_OVF` = 32 (R8, R29). -/
abbrev ovfMax : Nat := 2 ^ 32 - 1

end Sys2Proof.Config
end

