-- ==== Sys2Proof/Syntax.lean ====
section
/-! DEFINITION. The operations of the block, one constructor per row of the opcode table (R112, R116), and the form in which they are issued. -/

namespace Sys2Proof

/-- The operation set: the thirteen commands of R112, the pseudo-operation CS.STATUS (R220) and the six decoders of R116. -/
inductive Instr where
  /-- HP.PARSE(frame), R130; `caplen` is the frame's length -/
  | hpParse (frame : List Byte)
  /-- RB.WRITE(b), R150 -/
  | rbWrite (bytes : List Byte)
  /-- RB.AVAIL(), R155 -/
  | rbAvail
  /-- RB.CONSUME(len), R157 -/
  | rbConsume (len : Word)
  /-- RB.OVF(), R160 -/
  | rbOvf
  /-- DMX.DECODE(n), R170 -/
  | dmxDecode (n : Word)
  /-- CA.PRODUCE(requested), R195 -/
  | caProduce (requested : Word)
  /-- CS.CFG(arg), R205; `arg` is the configuration word of R113, its ignored bits included -/
  | csCfg (arg : Word)
  /-- CS.START[env], R209 -/
  | csStart
  /-- CS.STOP[env], R212 -/
  | csStop
  /-- CS.FRAME(frame), R215 -/
  | csFrame (frame : List Byte)
  /-- CS.RDREG(n), R219 -/
  | csRdreg (n : Word)
  /-- CS.STATUS(), R220: the word of CS.RDREG(1) -/
  | csStatus
  /-- CS.RESET(), R221 -/
  | csReset
  /-- DEC.PB.N(p), R173; `p` is the stream offset from the read cursor -/
  | decPbN (p : Nat)
  /-- DEC.PB.S(p), R174 -/
  | decPbS (p : Nat)
  /-- DEC.P4.N(p), R177 -/
  | decP4N (p : Nat)
  /-- DEC.P4.S(p), R178 -/
  | decP4S (p : Nat)
  /-- DEC.PF.N(p), R180 -/
  | decPfN (p : Nat)
  /-- DEC.PF.S(p), R181 -/
  | decPfS (p : Nat)
deriving DecidableEq, Repr

/-- What an agent puts on a port: a command, a byte string whose first byte is `OP` (R110), or, for a test bench only,
the call of one decoder by its selector `SEL` (R116) at a stream offset (R21). Log 14. -/
inductive Wire where
  /-- a command's bytes, byte 0 first -/
  | command (bytes : List Byte)
  /-- a decoder called by `SEL` at stream offset `p` -/
  | decoder (sel : BitVec 3) (p : Nat)
deriving DecidableEq, Repr

end Sys2Proof
end

