-- ==== Sys2Proof/Machine/State.lean ====
section
/-! DEFINITION. The state of the block (R20), the two sides of its interface, the reasons a step can stop, and reset. -/

namespace Sys2Proof.Machine

/-- The lifecycle state of the session; there are no intermediate states (R38). -/
inductive Session where
  | idle
  | capturing
deriving DecidableEq, Repr

/-- Who issues an operation: the three agents of R21, or a test bench that calls the internal operations. -/
inductive Agent where
  | producer
  | consumer
  | owner
  | testBench
deriving DecidableEq, Repr

/-- The environment's answer to CS.START (R114, R210). -/
inductive StartEnv where
  | ok
  /-- the capture device could not be opened -/
  | devFail
  /-- the device was opened and the socket could not be bound -/
  | bindFail
deriving DecidableEq, Repr

/-- The environment's answer to CS.STOP (R114, R212). -/
inductive StopEnv where
  | ok
  /-- the capture thread did not join -/
  | joinFail
deriving DecidableEq, Repr

/-- The causes of StartupError (R231). -/
inductive StartupCause where
  | deviceOpen
  | socketBind
deriving DecidableEq, Repr

/-- The causes of ConfigurationError (R231). -/
inductive ConfigCause where
  | unknownFormat
  | channelCount
deriving DecidableEq, Repr

/-- The reasons of `Refused` (R245). -/
inductive RefuseReason where
  | notIdle
  | notConfigured
  | notCapturing
  | unknownOp
deriving DecidableEq, Repr

/-- What an operation answers to the agent that issued it (R115, R231). -/
inductive Response where
  /-- CS.FRAME, CS.RESET, RB.CONSUME and DMX.DECODE return nothing -/
  | none
  | ok
  /-- RB.WRITE only: OverflowCondition (R235) -/
  | fail
  /-- HP.PARSE only: the payload is the `len` bytes from frame offset `off` (R138) -/
  | accept (off len : Nat)
  /-- HP.PARSE only: not applicable, MalformedOrIrrelevantPacket (R236) -/
  | na
  /-- RB.AVAIL, RB.OVF, CA.PRODUCE, CS.RDREG: a 32-bit number -/
  | word (value : Word)
  /-- a decoder's result (R173 to R181) -/
  | sample (value : Sample)
  | startupError (cause : StartupCause)
  | configurationError (cause : ConfigCause)
  | shutdownError
  | refused (reason : RefuseReason)
deriving DecidableEq, Repr

/-- Ring space: the bytes of `MEM` written since the last reset, by index. An index not listed holds a free value
(`Config.unwrittenByte`, log 7). -/
abbrev Memory := List Host.Cell

/-- Output space: the elements of the caller's arrays that hold a known value, by `outKey ch s`. An element not listed is as
the host left it and the block cannot know it (R43, log 10). -/
abbrev OutSpace := Cells Sample

/-- One issued operation with every input of its step (R22). -/
structure Request where
  /-- who issues it -/
  agent : Agent
  /-- the command, or the decoder called -/
  wire : Wire
  /-- what the environment answers if it is CS.START -/
  startEnv : StartEnv
  /-- what the environment answers if it is CS.STOP -/
  stopEnv : StopEnv
  /-- the content of the arrays the caller passes; none where it passes the ones it passed before, or none (R186) -/
  arrays : Option OutSpace
deriving DecidableEq, Repr

/-- The whole state: the block's (R20), its capacity, and the sides of its interface (INVENTORY.md, State). -/
structure State where
  /-- `C`, the capacity; no operation changes it (R9) -/
  cap : Nat
  /-- `CFGR` (R33) -/
  cfgr : Word
  /-- `CONFIGURED` (R39) -/
  configured : Bool
  /-- `FAULT` (R40) -/
  faulted : Bool
  /-- `SESSION` (R38) -/
  session : Session
  /-- `MEM` (R24) -/
  mem : Memory
  /-- `WR` (R25) -/
  wr : Nat
  /-- `RD` (R26) -/
  rd : Nat
  /-- `COUNT` (R27) -/
  count : Nat
  /-- `OVF` (R29) -/
  ovf : Word
  /-- the model's own: resets since power-on, the argument of the free values of unwritten bytes (log 7) -/
  memEpoch : Nat
  /-- the caller's sample arrays `OUT`, not state of the block (R43) -/
  out : OutSpace
  /-- the response of the last operation (R115) -/
  resp : Response
  /-- the agent that issued the last operation and receives its response (R230) -/
  issuer : Agent
  /-- the environment's answer to a CS.START (R114) -/
  startEnv : StartEnv
  /-- the environment's answer to a CS.STOP (R114) -/
  stopEnv : StopEnv
  /-- the operations issued and not yet taken, in the total order of R77 -/
  queue : List Request
deriving DecidableEq, Repr

/-- The model-only faults of R247, and no others. All are safe: the model stops where the spec gives no meaning. -/
inductive Fault where
  /-- RB.CONSUME(len) with `len > COUNT` (R159). Safe. -/
  | consumeBeyondCount
  /-- DMX.DECODE(n) with `n * G > COUNT` (R171). Safe. -/
  | decodeBeyondCount
  /-- `RBRead(k)` with `k ≥ COUNT`, by a decoder called directly (R156). Safe. -/
  | readBeyondCount
  /-- DMX.DECODE, or a decoder selected, with `FMT` = 0 (R120); CA.PRODUCE with a group size of 0, which no run reaches
  (log 16). Safe. -/
  | unconfiguredDecode
deriving DecidableEq, Repr

/-- Where the model gives no meaning. -/
inductive Refusal where
  /-- raised by `exec` for an instruction without a meaning yet; safe -/
  | notModelled (mnemonic : String)
  /-- raised by the step for a byte string that is longer than its command's format, which the spec does not describe
  (log 6); safe -/
  | overlongCommand
  /-- raised by the step for an internal operation that no test bench issued: it has no port, and what the block would do with it
  is not described (log 25); safe -/
  | internalOperation
deriving DecidableEq, Repr

/-- Power-on: the values of R44. The capacity is the one the block is built with (log 1); nothing has been issued (log 3). -/
def State.reset : State where
  cap := Config.capacity
  cfgr := 0#32
  configured := false
  faulted := false
  session := .idle
  mem := []
  wr := 0
  rd := 0
  count := 0
  ovf := 0#32
  memEpoch := 0
  out := []
  resp := .none
  issuer := .owner
  startEnv := .ok
  stopEnv := .ok
  queue := []

end Sys2Proof.Machine
end

