-- ==== Sys2Proof/Machine/Operands.lean ====
section
/-! DEFINITION. How values are assembled from bits and bytes: frame fields, configuration fields, sample components (R12, R33, R98, R99). -/

namespace Sys2Proof.Machine

/-! ### Frame fields -/

/-- `frame[i]`; `beyond` stands for what lies beyond the captured bytes, which no rule reads (R131). -/
def frameByte (beyond : Nat → Byte) (frame : List Byte) (i : Nat) : Byte := frame.getD i (beyond i)

/-- `be16(frame, i)`: a 16-bit field in network byte order, zero-extended (R12, R66). -/
def be16 (beyond : Nat → Byte) (frame : List Byte) (i : Nat) : Nat :=
  (frameByte beyond frame i).toNat * 256 + (frameByte beyond frame (i + 1)).toNat

/-- `ihl`, bits 3:0 of the first IP byte (R98, R133). -/
def ihl (firstIpByte : Byte) : Nat := (firstIpByte.extractLsb' 0 4).toNat

/-- `u`, the frame offset of the UDP header, immediately after an IP header of `ihl * 4` bytes (R98, R134). -/
def udpOffset (firstIpByte : Byte) : Nat := Config.ethHlen + ihl firstIpByte * 4

/-! ### Configuration fields (R33, R113) -/

/-- `PORT`, bits 15:0. -/
def portField (w : Word) : BitVec 16 := w.extractLsb' 0 16

/-- `FMT`, bits 17:16. -/
def fmtField (w : Word) : BitVec 2 := w.extractLsb' 16 2

/-- `SWAP`, bit 18. -/
def swapField (w : Word) : BitVec 1 := w.extractLsb' 18 1

/-- `NCH`, bits 22:20. -/
def nchField (w : Word) : BitVec 3 := w.extractLsb' 20 3

/-- `NWIRED`, bits 26:24. -/
def nwiredField (w : Word) : BitVec 3 := w.extractLsb' 24 3

/-- The bits of `CFGR` that hold a field: all but 19, 23 and 31:27 (R33, U16). -/
def cfgrMask : Word := 0x0777FFFF#32

/-- The value CS.CFG stores: the argument with the reserved bits 0 (R205 line 8). -/
def cfgrOfArg (arg : Word) : Word := arg &&& cfgrMask

/-- `SEL = FMT[1:0] ‖ SWAP` (R116). -/
def selOf (cfgr : Word) : BitVec 3 := fmtField cfgr ++ swapField cfgr

/-- `BPS(FMT)`, bytes per sample per channel: PackedByte 2, Packed4Bit 1, PackedFloat 8 (R8, R100).
`FMT` = 0 names no format (R120); 0 marks it and every operation checks (log 16). -/
def bps (fmt : BitVec 2) : Nat :=
  if fmt = 1#2 then 2
  else if fmt = 2#2 then 1
  else if fmt = 3#2 then 8
  else 0

/-- `G = BPS(FMT) * NCH`, the bytes of one sample of every channel (R196, conflict C1). -/
def groupSize (cfgr : Word) : Nat := bps (fmtField cfgr) * (nchField cfgr).toNat

/-! ### Sample components -/

/-- `s8(v)`: the byte read as two's complement (R12, R175). -/
def s8 (v : Byte) : Int := if v.toNat < 128 then v.toNat else (v.toNat : Int) - 256

/-- `nib(c)`, the Packed4Bit code map (R176). -/
def nib (c : BitVec 4) : Int :=
  if 8 ≤ c.toNat then 2 * ((c.toNat : Int) - 16) + 1 else 2 * (c.toNat : Int) + 1

/-- `f32_of_int(z)`: the binary32 pattern equal to `z`, exact for `|z| < 2^24`; the decoders use it on [-128, 127] (R12, R105). -/
def f32OfInt (z : Int) : Word :=
  if z = 0 then 0#32
  else
    let m := z.natAbs
    let e := m.log2
    BitVec.ofBool (z < 0) ++ BitVec.ofNat 8 (127 + e) ++ BitVec.ofNat 23 ((m - 2 ^ e) * 2 ^ (23 - e))

/-- `le32`: four stream bytes, the lowest stream position least significant (R12, R67). -/
def leWord (b0 b1 b2 b3 : Byte) : Word := b3 ++ b2 ++ b1 ++ b0

/-- A count as a 32-bit response, zero-extended (R32, R115, R155). A count of `2^32` or more has no stated response: a
free value, the same each time that count is read (R75, log 11). -/
def word32 (n : Nat) : Word := if n < 2 ^ 32 then BitVec.ofNat 32 n else Config.wideRead n

/-- `OUT[ch][s]` as one address of output space; a channel number is below 8 because `NCH` has three bits. -/
def outKey (ch s : Nat) : Nat := s * 8 + ch

end Sys2Proof.Machine
end

