-- ==== Sys2Proof/Machine/Flags.lean ====
section
/-! DEFINITION. The flags, computed when `STATUS` is read, and the register map of CS.RDREG (R32 to R37). -/

namespace Sys2Proof.Machine

/-- `EMPTY = (COUNT = 0)` (R37). -/
def isEmpty (s : State) : Bool := s.count == 0

/-- `FULL = (COUNT = C)` (R37). -/
def isFull (s : State) : Bool := s.count == s.cap

/-- `STATUS`: `SESSION`, `CONFIGURED`, `FAULT`, `EMPTY`, `FULL` in bits 0 to 4, the rest 0 (R34). -/
def statusWord (s : State) : Word :=
  0#27 ++ BitVec.ofBool (isFull s) ++ BitVec.ofBool (isEmpty s) ++ BitVec.ofBool s.faulted
    ++ BitVec.ofBool s.configured ++ BitVec.ofBool (s.session == .capturing)

/-- The control and status registers by number; any number outside 0 .. 5 reads 0 (R32, R219). -/
def registerWord (s : State) (n : Word) : Word :=
  if n = 0#32 then s.cfgr
  else if n = 1#32 then statusWord s
  else if n = 2#32 then word32 s.count
  else if n = 3#32 then s.ovf
  else if n = 4#32 then word32 s.cap
  else if n = 5#32 then BitVec.ofNat 32 Config.itemSize
  else 0#32

end Sys2Proof.Machine
end

