-- ==== Sys2Proof/Machine/Ops.lean ====
section
/-! DEFINITION. The named operations over memory, output space and registers, answering, and the errors of R230. -/

namespace Sys2Proof.Machine

/-- What a step of the block ends in. -/
abbrev Result := Host.Outcome State Fault Refusal

/-! ### Cells: sparse data with strictly rising addresses -/

/-- The value listed at an address. -/
def cellGet {α : Type} : Cells α → Nat → Option α
  | [], _ => none
  | (k, v) :: rest, i => if k = i then some v else cellGet rest i

/-- Sets the value at an address, the addresses still rising. -/
def cellSet {α : Type} : Cells α → Nat → α → Cells α
  | [], i, x => [(i, x)]
  | (k, v) :: rest, i, x =>
    if i < k then (i, x) :: (k, v) :: rest
    else if i = k then (i, x) :: rest
    else (k, v) :: cellSet rest i x

/-- The canonical form of cells: strictly rising addresses. An unlisted address has no listed value, so no entry repeats it. -/
abbrev cellsWf {α : Type} (m : Cells α) : Prop := m.Pairwise (fun a b => a.1 < b.1)

/-- The canonical form of `MEM`. -/
abbrev Memory.wf (m : Memory) : Prop := cellsWf m

/-! ### Ring space -/

/-- What byte `MEM[i]` holds: the byte written there, or the free value of a byte nothing has written since the last reset
(R24, R45, U8, log 7). -/
def memByte (s : State) (i : Nat) : Byte := (cellGet s.mem i).getD (Config.unwrittenByte s.memEpoch i)

/-- Byte `k` of the unconsumed stream, `MEM[(RD + k) mod C]` (R156). -/
def streamByte (s : State) (k : Nat) : Byte := memByte s ((s.rd + k) % s.cap)

/-- `RBRead(k)`: no meaning for `k ≥ COUNT` (R156, R247). -/
def rbRead (s : State) (k : Nat) : Except Fault Byte :=
  if k < s.count then .ok (streamByte s k) else .error .readBeyondCount

/-- `MEM[(WR + i) mod C] <- b[i]` for each byte in turn, from index `wr` on (R150 lines 5 and 6). -/
def ringStore (cap : Nat) : Memory → Nat → List Byte → Memory
  | m, _, [] => m
  | m, wr, b :: rest => ringStore cap (cellSet m (wr % cap) b) (wr + 1) rest

/-- A taken write: the bytes stored, `WR` and `COUNT` advanced by their number (R150 lines 5 to 8). -/
def State.append (s : State) (bytes : List Byte) : State :=
  { s with
    mem := ringStore s.cap s.mem s.wr bytes
    wr := (s.wr + bytes.length) % s.cap
    count := s.count + bytes.length }

/-- `OVF <- min(OVF + 1, 2^32 - 1)` (R150 line 3, R29). -/
def State.bumpOvf (s : State) : State :=
  { s with ovf := BitVec.ofNat 32 (min (s.ovf.toNat + 1) Config.ovfMax) }

/-- Whether `L` bytes are more than the free space `C - COUNT` (R150 line 2, R151). -/
def overflows (s : State) (len : Nat) : Bool := s.cap - s.count < len

/-- RB.WRITE(b), whole or not at all, with its response (R150). -/
def ringWrite (s : State) (bytes : List Byte) : State × Response :=
  if overflows s bytes.length then (s.bumpOvf, .fail) else (s.append bytes, .ok)

/-- `RD` and `COUNT` moved by `len` (R157 lines 2 and 3). -/
def State.advance (s : State) (len : Nat) : State :=
  { s with rd := (s.rd + len) % s.cap, count := s.count - len }

/-- RB.CONSUME(len): no meaning for `len > COUNT` (R157, R159). -/
def ringConsume (s : State) (len : Nat) : Except Fault State :=
  if s.count < len then .error .consumeBeyondCount else .ok (s.advance len)

/-! ### Output space -/

/-- What the caller's element `OUT[ch][s]` is known to hold. -/
def outGet (o : OutSpace) (ch smp : Nat) : Option Sample := cellGet o (outKey ch smp)

/-- `OUT[ch][s] <- v` (R12, R186). -/
def outSet (o : OutSpace) (ch smp : Nat) (v : Sample) : OutSpace := cellSet o (outKey ch smp) v

/-- The caller's arrays replaced. -/
def State.withOut (s : State) (o : OutSpace) : State := { s with out := o }

/-! ### Control state -/

/-- `SESSION <- v` (R38). -/
def State.withSession (s : State) (v : Session) : State := { s with session := v }

/-- `FAULT <- 1` (R40). -/
def State.setFault (s : State) : State := { s with faulted := true }

/-- `CONFIGURED <- 0` (R39). -/
def State.clearConfigured (s : State) : State := { s with configured := false }

/-- A successful configuration: `CFGR` stored with its reserved bits 0, the ring buffer emptied, `CONFIGURED <- 1`; `MEM` is
not cleared (R205 lines 8 to 10, R206). -/
def State.configure (s : State) (arg : Word) : State :=
  { s with cfgr := cfgrOfArg arg, wr := 0, rd := 0, count := 0, ovf := 0#32, configured := true }

/-- Every element of the block's own state takes its reset value, `MEM` becoming unspecified anew (R44, R221, R265). The
capacity, the caller's arrays and what is issued are not state of the block (R22, log 21). -/
def State.resetBlock (s : State) : State :=
  { s with
    cfgr := 0#32
    configured := false
    faulted := false
    session := .idle
    mem := []
    wr := 0
    rd := 0
    count := 0
    ovf := 0#32
    memEpoch := s.memEpoch + 1 }

/-! ### Answers and errors -/

/-- The response of the operation, to the agent that issued it (R12 `return`, R115). -/
def State.answer (s : State) (r : Response) : State := { s with resp := r }

/-- An operation that ends with a response. -/
def reply (s : State) (r : Response) : Result := .next (s.answer r)

/-- `raise`: an error is the response of the operation that met it. Nothing is saved, no handler runs, and the state is what
the operation's rule says (R12, R230, R242). The return from it is the agent's next operation (R243): the model's next step.
The response handed to it is one of the errors and refusals of R231 and R245. -/
def raise (s : State) (error : Response) : Result := .next (s.answer error)

/-- The kind code of a response; none for a plain value, which carries no code (R231). -/
def kindCode : Response → Option Byte
  | .none => none
  | .ok => some 0x00
  | .fail => some 0x03
  | .accept _ _ => none
  | .na => some 0x04
  | .word _ => none
  | .sample _ => none
  | .startupError _ => some 0x01
  | .configurationError _ => some 0x02
  | .shutdownError => some 0x05
  | .refused _ => some 0x10

/-- The cause code of a response whose kind has causes (R231, R245). -/
def causeCode : Response → Option Byte
  | .none => none
  | .ok => none
  | .fail => none
  | .accept _ _ => none
  | .na => none
  | .word _ => none
  | .sample _ => none
  | .startupError .deviceOpen => some 1
  | .startupError .socketBind => some 2
  | .configurationError .unknownFormat => some 1
  | .configurationError .channelCount => some 2
  | .shutdownError => none
  | .refused .notIdle => some 1
  | .refused .notConfigured => some 2
  | .refused .notCapturing => some 3
  | .refused .unknownOp => some 4

/-! ### Taking a request -/

/-- The request at the head of the queue leaves it and becomes the operation in hand: its agent, its environment answers and
the arrays its caller passes are the step's inputs (R22, R77). -/
def State.take (s : State) (r : Request) (rest : List Request) : State :=
  { s with
    queue := rest
    issuer := r.agent
    startEnv := r.startEnv
    stopEnv := r.stopEnv
    out := r.arrays.getD s.out }

end Sys2Proof.Machine
end

