-- ==== Sys2Proof/Machine/HeaderParser.lean ====
section
/-! DEFINITION. HeaderParser: HP.PARSE (R130 to R146). -/

namespace Sys2Proof.Machine

/-- `plen = ulen - 8`, signed (R98, R130 line 12, R136). -/
def payloadLength (ulen : Nat) : Int := (ulen : Int) - Config.udpHlen

/-- Lines 8 to 15 of R130, with the UDP header at offset `u`. -/
def parseUdp (beyond : Nat → Byte) (port : BitVec 16) (frame : List Byte) (u : Nat) : Option (Nat × Nat) :=
  if frame.length < u + Config.udpHlen then none
  else if be16 beyond frame (u + 2) ≠ port.toNat then none
  else if payloadLength (be16 beyond frame (u + 4)) < 0 then none
  else if (frame.length : Int) - (u + Config.udpHlen) < payloadLength (be16 beyond frame (u + 4)) then none
  else some (u + Config.udpHlen, (payloadLength (be16 beyond frame (u + 4))).toNat)

/-- The pseudocode of R130, line by line: `some (off, len)` for `Accept(off, len)`, `none` for `NA`.
`caplen` is `frame.length`. `beyond` stands for bytes at or beyond it; the length checks of lines 1, 4 and 8 keep every read
inside (R131). -/
def parseFrameWith (beyond : Nat → Byte) (port : BitVec 16) (frame : List Byte) : Option (Nat × Nat) :=
  if frame.length < Config.ethHlen then none
  else if be16 beyond frame 12 ≠ Config.ethertypeIpv4 then none
  else if frame.length < Config.ethHlen + 1 then none
  else parseUdp beyond port frame (udpOffset (frameByte beyond frame Config.ethHlen))

/-- HP.PARSE as a function of the frame and `PORT` alone (R140). -/
def parseFrame (port : BitVec 16) (frame : List Byte) : Option (Nat × Nat) :=
  parseFrameWith Config.beyondFrame port frame

/-- The payload `frame[off .. off + len - 1]` (R138). -/
def payloadOf (frame : List Byte) (off len : Nat) : List Byte := (frame.drop off).take len

/-- The response of HP.PARSE (R130 line 15 and its `return NA` lines). -/
def parseResponse : Option (Nat × Nat) → Response
  | some (off, len) => .accept off len
  | none => .na

/-- HP.PARSE(frame): writes no state (R130, R140). -/
def execHpParse (frame : List Byte) (s : State) : Result :=
  reply s (parseResponse (parseFrame (portField s.cfgr) frame))

end Sys2Proof.Machine
end

