-- ==== Sys2Proof/Machine/RingBuffer.lean ====
section
/-! DEFINITION. RingBuffer: RB.WRITE, RB.AVAIL, RB.CONSUME, RB.OVF (R150 to R163). -/

namespace Sys2Proof.Machine

/-- RB.WRITE(b) -> `Ok` or `Fail` (R150). -/
def execRbWrite (bytes : List Byte) (s : State) : Result :=
  reply (ringWrite s bytes).1 (ringWrite s bytes).2

/-- RB.AVAIL() -> `COUNT` (R155). -/
def execRbAvail (s : State) : Result := reply s (.word (word32 s.count))

/-- RB.CONSUME(len); no response (R157). -/
def execRbConsume (len : Word) (s : State) : Result :=
  match ringConsume s len.toNat with
  | .ok t => reply t .none
  | .error f => .fault f

/-- RB.OVF() -> `OVF`; the read does not clear the counter (R160). -/
def execRbOvf (s : State) : Result := reply s (.word s.ovf)

end Sys2Proof.Machine
end

