-- ==== Sys2Proof/Machine/CaptureSession.lean ====
section
/-! DEFINITION. CaptureSession: CS.CFG, CS.START, CS.STOP, CS.FRAME, CS.RDREG, CS.STATUS, CS.RESET (R205 to R223). -/

namespace Sys2Proof.Machine

/-- `nch < 1 or nch > 4 or nch > nwired` (R205 line 5, R121). -/
def badChannelCount (arg : Word) : Bool :=
  (nchField arg).toNat < Config.nchMin || Config.nchMax < (nchField arg).toNat
    || (nwiredField arg).toNat < (nchField arg).toNat

/-- CS.CFG(port, fmt, swap, nch, nwired): lifecycle first, then format, then channel count (R205, R208). -/
def execCsCfg (arg : Word) (s : State) : Result :=
  if s.session = .capturing then raise s (.refused .notIdle)
  else if fmtField arg = 0#2 then raise s.clearConfigured (.configurationError .unknownFormat)
  else if badChannelCount arg then raise s.clearConfigured (.configurationError .channelCount)
  else reply (s.configure arg) .ok

/-- CS.START[env] (R209 to R211). -/
def execCsStart (s : State) : Result :=
  if s.configured = false then raise s (.refused .notConfigured)
  else if s.session = .capturing then raise s (.refused .notIdle)
  else
    match s.startEnv with
    | .devFail => raise s (.startupError .deviceOpen)
    | .bindFail => raise s (.startupError .socketBind)
    | .ok => reply (s.withSession .capturing) .ok

/-- CS.STOP[env] (R212 to R214). -/
def execCsStop (s : State) : Result :=
  if s.session = .idle then raise s (.refused .notCapturing)
  else
    match s.stopEnv with
    | .joinFail => raise s.setFault .shutdownError
    | .ok => reply (s.withSession .idle) .ok

/-- CS.FRAME(frame): discarded in Idle; parsed, and an accepted payload written, in Capturing; no response (R215 to R218). -/
def execCsFrame (frame : List Byte) (s : State) : Result :=
  if s.session = .idle then reply s .none
  else
    match parseFrame (portField s.cfgr) frame with
    | none => reply s .none
    | some (off, len) => reply (ringWrite s (payloadOf frame off len)).1 .none

/-- CS.RDREG(n) -> 32-bit value, without side effect (R219, R75). -/
def execCsRdreg (n : Word) (s : State) : Result := reply s (.word (registerWord s n))

/-- CS.STATUS() = CS.RDREG(1) (R220). -/
def execCsStatus (s : State) : Result := reply s (.word (registerWord s 1#32))

/-- CS.RESET(): in any state, no response (R221). -/
def execCsReset (s : State) : Result := reply s.resetBlock .none

end Sys2Proof.Machine
end

