-- ==== Sys2Proof/Machine/SampleDemux.lean ====
section
/-! DEFINITION. SampleDemux: the six decoders and DMX.DECODE (R170 to R186). -/

namespace Sys2Proof.Machine

/-! ### One item, each decoder -/

/-- PackedByte non-swapped: complex(byte1, byte0) (R173). -/
def itemPbN (s : State) (p : Nat) : Except Fault Sample := do
  let b0 ← rbRead s p
  let b1 ← rbRead s (p + 1)
  return { re := f32OfInt (s8 b1), im := f32OfInt (s8 b0) }

/-- PackedByte swapped: complex(byte0, byte1) (R174). -/
def itemPbS (s : State) (p : Nat) : Except Fault Sample := do
  let b0 ← rbRead s p
  let b1 ← rbRead s (p + 1)
  return { re := f32OfInt (s8 b0), im := f32OfInt (s8 b1) }

/-- Packed4Bit non-swapped: the low nibble, decoded first, is real (R177). -/
def itemP4N (s : State) (p : Nat) : Except Fault Sample := do
  let b ← rbRead s p
  return { re := f32OfInt (nib (b.extractLsb' 0 4)), im := f32OfInt (nib (b.extractLsb' 4 4)) }

/-- Packed4Bit swapped: the high nibble, decoded second, is real (R178). -/
def itemP4S (s : State) (p : Nat) : Except Fault Sample := do
  let b ← rbRead s p
  return { re := f32OfInt (nib (b.extractLsb' 4 4)), im := f32OfInt (nib (b.extractLsb' 0 4)) }

/-- `le32(p)`: one binary32 pattern of the stream, not converted (R12, R99, R182). -/
def le32 (s : State) (p : Nat) : Except Fault Word := do
  let b0 ← rbRead s p
  let b1 ← rbRead s (p + 1)
  let b2 ← rbRead s (p + 2)
  let b3 ← rbRead s (p + 3)
  return leWord b0 b1 b2 b3

/-- PackedFloat non-swapped: the first float is real (R180). -/
def itemPfN (s : State) (p : Nat) : Except Fault Sample := do
  let f0 ← le32 s p
  let f1 ← le32 s (p + 4)
  return { re := f0, im := f1 }

/-- PackedFloat swapped: the second float is real (R181). -/
def itemPfS (s : State) (p : Nat) : Except Fault Sample := do
  let f0 ← le32 s p
  let f1 ← le32 s (p + 4)
  return { re := f1, im := f0 }

/-- The item at stream offset `p` under the decoder that `SEL` selects (R116); `SEL` = 0b00x selects none (R120). -/
def decodeItem (s : State) (p : Nat) : Except Fault Sample :=
  let sel := selOf s.cfgr
  if sel = 0b010#3 then itemPbN s p
  else if sel = 0b011#3 then itemPbS s p
  else if sel = 0b100#3 then itemP4N s p
  else if sel = 0b101#3 then itemP4S s p
  else if sel = 0b110#3 then itemPfN s p
  else if sel = 0b111#3 then itemPfS s p
  else .error .unconfiguredDecode

/-- A decoder called directly: its result is the response and no state is written (R173 to R181). -/
def replyItem (s : State) (item : Except Fault Sample) : Result :=
  match item with
  | .ok v => reply s (.sample v)
  | .error f => .fault f

/-- DEC.PB.N(p) (R173). -/
def execDecPbN (p : Nat) (s : State) : Result := replyItem s (itemPbN s p)

/-- DEC.PB.S(p) (R174). -/
def execDecPbS (p : Nat) (s : State) : Result := replyItem s (itemPbS s p)

/-- DEC.P4.N(p) (R177). -/
def execDecP4N (p : Nat) (s : State) : Result := replyItem s (itemP4N s p)

/-- DEC.P4.S(p) (R178). -/
def execDecP4S (p : Nat) (s : State) : Result := replyItem s (itemP4S s p)

/-- DEC.PF.N(p) (R180). -/
def execDecPfN (p : Nat) (s : State) : Result := replyItem s (itemPfN s p)

/-- DEC.PF.S(p) (R181). -/
def execDecPfS (p : Nat) (s : State) : Result := replyItem s (itemPfS s p)

/-! ### Many items -/

/-- The stream offset of the item of sample `smp`, channel `ch` (R104, R172, R183). -/
def itemOffset (s : State) (ch smp : Nat) : Nat :=
  (smp * (nchField s.cfgr).toNat + ch) * bps (fmtField s.cfgr)

/-- The first `k` channels of sample `smp`, channel 0 first (R170 lines 5 to 7, R172). -/
def decodeChannels (s : State) (smp : Nat) : Nat → OutSpace → Except Fault OutSpace
  | 0, o => .ok o
  | ch + 1, o => do
    let o' ← decodeChannels s smp ch o
    let v ← decodeItem s (itemOffset s ch smp)
    return outSet o' ch smp v

/-- The first `n` samples of every channel, in stream order (R170 lines 4 to 7, R172). -/
def decodeSamples (s : State) : Nat → OutSpace → Except Fault OutSpace
  | 0, o => .ok o
  | smp + 1, o => do
    let o' ← decodeSamples s smp o
    decodeChannels s smp (nchField s.cfgr).toNat o'

/-- DMX.DECODE(n): the samples decoded into `OUT` and exactly their bytes consumed, in one step (R170, R185). -/
def demux (s : State) (n : Nat) : Except Fault State :=
  if fmtField s.cfgr = 0#2 then .error .unconfiguredDecode
  else if s.count < n * groupSize s.cfgr then .error .decodeBeyondCount
  else do
    let o ← decodeSamples s n s.out
    ringConsume (s.withOut o) (n * groupSize s.cfgr)

/-- DMX.DECODE(n); no response (R170). -/
def execDmxDecode (n : Word) (s : State) : Result :=
  match demux s n.toNat with
  | .ok t => reply t .none
  | .error f => .fault f

end Sys2Proof.Machine
end

