-- ==== Sys2Proof/Machine/ConsumerAdapter.lean ====
section
/-! DEFINITION. ConsumerAdapter: CA.PRODUCE (R195 to R204). -/

namespace Sys2Proof.Machine

/-- `min(requested, available_bytes div G)`: whole sample groups only (R195 line 4, R197). -/
def deliverable (s : State) (requested : Nat) : Nat := min requested (s.count / groupSize s.cfgr)

/-- CA.PRODUCE(requested) -> `produced`, one atomic step, whatever `SESSION` is (R195, R202).
A group size of 0 has no meaning; with `CONFIGURED` = 1 no run reaches it (R206, log 16). -/
def execCaProduce (requested : Word) (s : State) : Result :=
  if s.configured = false then raise s (.refused .notConfigured)
  else if groupSize s.cfgr = 0 then .fault .unconfiguredDecode
  else if deliverable s requested.toNat = 0 then reply s (.word 0#32)
  else
    match demux s (deliverable s requested.toNat) with
    | .ok t => reply t (.word (BitVec.ofNat 32 (deliverable s requested.toNat)))
    | .error f => .fault f

end Sys2Proof.Machine
end

