-- ==== Sys2Proof/Machine/Dispatch.lean ====
section
/-! DEFINITION. One arm per operation, each a direct call of its meaning. -/

namespace Sys2Proof.Machine

def exec (i : Instr) (s : State) : Host.Outcome State Fault Refusal :=
  match i with
  -- HeaderParser
  | .hpParse frame => Sys2Proof.Machine.execHpParse frame s
  -- RingBuffer
  | .rbWrite bytes => Sys2Proof.Machine.execRbWrite bytes s
  | .rbAvail => Sys2Proof.Machine.execRbAvail s
  | .rbConsume len => Sys2Proof.Machine.execRbConsume len s
  | .rbOvf => Sys2Proof.Machine.execRbOvf s
  -- SampleDemux, ConsumerAdapter
  | .dmxDecode n => Sys2Proof.Machine.execDmxDecode n s
  | .caProduce requested => Sys2Proof.Machine.execCaProduce requested s
  -- CaptureSession
  | .csCfg arg => Sys2Proof.Machine.execCsCfg arg s
  | .csStart => Sys2Proof.Machine.execCsStart s
  | .csStop => Sys2Proof.Machine.execCsStop s
  | .csFrame frame => Sys2Proof.Machine.execCsFrame frame s
  | .csRdreg n => Sys2Proof.Machine.execCsRdreg n s
  | .csStatus => Sys2Proof.Machine.execCsStatus s
  | .csReset => Sys2Proof.Machine.execCsReset s
  -- the six decoders
  | .decPbN p => Sys2Proof.Machine.execDecPbN p s
  | .decPbS p => Sys2Proof.Machine.execDecPbS p s
  | .decP4N p => Sys2Proof.Machine.execDecP4N p s
  | .decP4S p => Sys2Proof.Machine.execDecP4S p s
  | .decPfN p => Sys2Proof.Machine.execDecPfN p s
  | .decPfS p => Sys2Proof.Machine.execDecPfS p s

end Sys2Proof.Machine
end

