-- ==== Sys2Proof/WellFormed.lean ====
section
/-! DEFINITION. Which operations have an encoding of their own: the checks an operand must pass. -/

namespace Sys2Proof

/-- The data of a format S command is at most `MAXCAP` bytes, the range of `LEN` (R110, R112). -/
def fitsLen (data : List Byte) : Bool := data.length ≤ Config.maxCap

/-- The operands for which the operation has an encoding that reads back as it.
CS.RDREG(1) is written CS.STATUS, whose word it is (R220, log 12). Every `ARG` word and every stream offset is legal. -/
def wellFormed : Instr → Bool
  | .hpParse frame => fitsLen frame
  | .rbWrite bytes => fitsLen bytes
  | .rbAvail => true
  | .rbConsume _ => true
  | .rbOvf => true
  | .dmxDecode _ => true
  | .caProduce _ => true
  | .csCfg _ => true
  | .csStart => true
  | .csStop => true
  | .csFrame frame => fitsLen frame
  | .csRdreg n => n != 1#32
  | .csStatus => true
  | .csReset => true
  | .decPbN _ => true
  | .decPbS _ => true
  | .decP4N _ => true
  | .decP4S _ => true
  | .decPfN _ => true
  | .decPfS _ => true

end Sys2Proof
end

