-- ==== Sys2Proof/Decode.lean ====
section
/-! DEFINITION. Reading an operation from what an agent puts on a port (R110, R112, R116), writing it, and the opcode table's numbering of its bits. -/

namespace Sys2Proof

/-- Why no operation is read. -/
inductive DecodeError where
  /-- fewer bytes than the format needs: not a command, the block waits for the rest (R122, log 5) -/
  | incomplete
  /-- an `OP` byte outside R112 (R122) -/
  | unknownOp (op : Byte)
  /-- more bytes than the format gives the command (log 6) -/
  | overlong
  /-- `SEL` = 0b000 or 0b001 names no decoder (R116, R120) -/
  | noDecoder (sel : BitVec 3)
deriving DecidableEq, Repr

/-- The three command formats of R110, each with the operation its operand makes. -/
inductive CommandFormat where
  /-- `OP` alone -/
  | z (i : Instr)
  /-- `OP` and a big-endian `ARG` -/
  | w (f : Word → Instr)
  /-- `OP`, a big-endian `LEN`, and `LEN` data bytes -/
  | s (f : List Byte → Instr)

/-- CS.RDREG(1) is CS.STATUS (R220, log 12). -/
def rdregOrStatus (n : Word) : Instr := if n = 1#32 then .csStatus else .csRdreg n

/-- The operation set of R112 by `OP`. -/
def formatOf (op : Byte) : Option CommandFormat :=
  if op = 0x10#8 then some (.s .hpParse)
  else if op = 0x20#8 then some (.s .rbWrite)
  else if op = 0x21#8 then some (.z .rbAvail)
  else if op = 0x22#8 then some (.w .rbConsume)
  else if op = 0x23#8 then some (.z .rbOvf)
  else if op = 0x30#8 then some (.w .dmxDecode)
  else if op = 0x40#8 then some (.w .caProduce)
  else if op = 0x50#8 then some (.w .csCfg)
  else if op = 0x51#8 then some (.z .csStart)
  else if op = 0x52#8 then some (.z .csStop)
  else if op = 0x53#8 then some (.s .csFrame)
  else if op = 0x54#8 then some (.w rdregOrStatus)
  else if op = 0x5F#8 then some (.z .csReset)
  else none

/-- `ARG[31:24] ‖ ARG[23:16] ‖ ARG[15:8] ‖ ARG[7:0]` from command bytes 1 to 4 (R110). -/
def argOfBytes (b1 b2 b3 b4 : Byte) : Word := b1 ++ b2 ++ b3 ++ b4

/-- `LEN` from command bytes 1 and 2 (R110). -/
def lenOfBytes (hi lo : Byte) : Nat := hi.toNat * 256 + lo.toNat

/-- Format Z after its `OP` byte (R110). -/
def decodeZ (i : Instr) : List Byte → Except DecodeError Instr
  | [] => .ok i
  | _ :: _ => .error .overlong

/-- Format W after its `OP` byte (R110). -/
def decodeW (f : Word → Instr) : List Byte → Except DecodeError Instr
  | [b1, b2, b3, b4] => .ok (f (argOfBytes b1 b2 b3 b4))
  | _ :: _ :: _ :: _ :: _ :: _ => .error .overlong
  | _ => .error .incomplete

/-- Format S after its `OP` byte (R110). -/
def decodeS (f : List Byte → Instr) : List Byte → Except DecodeError Instr
  | hi :: lo :: data =>
    if data.length < lenOfBytes hi lo then .error .incomplete
    else if lenOfBytes hi lo < data.length then .error .overlong
    else .ok (f data)
  | _ => .error .incomplete

/-- Reading a command (R110, R112, R122). -/
def decodeCommand : List Byte → Except DecodeError Instr
  | [] => .error .incomplete
  | op :: rest =>
    match formatOf op with
    | none => .error (.unknownOp op)
    | some (.z i) => decodeZ i rest
    | some (.w f) => decodeW f rest
    | some (.s f) => decodeS f rest

/-- The decoder that `SEL = FMT ‖ SWAP` names (R116). -/
def decoderOf (sel : BitVec 3) (p : Nat) : Option Instr :=
  if sel = 0b010#3 then some (.decPbN p)
  else if sel = 0b011#3 then some (.decPbS p)
  else if sel = 0b100#3 then some (.decP4N p)
  else if sel = 0b101#3 then some (.decP4S p)
  else if sel = 0b110#3 then some (.decPfN p)
  else if sel = 0b111#3 then some (.decPfS p)
  else none

/-- Reading whatever an agent puts on a port. -/
def decode : Wire → Except DecodeError Instr
  | .command bytes => decodeCommand bytes
  | .decoder sel p =>
    match decoderOf sel p with
    | some i => .ok i
    | none => .error (.noDecoder sel)

/-- A format W command (R110). -/
def encodeW (op : Byte) (arg : Word) : Wire :=
  .command [op, arg.extractLsb' 24 8, arg.extractLsb' 16 8, arg.extractLsb' 8 8, arg.extractLsb' 0 8]

/-- A format S command (R110). -/
def encodeS (op : Byte) (data : List Byte) : Wire :=
  .command (op :: BitVec.ofNat 8 (data.length / 256) :: BitVec.ofNat 8 data.length :: data)

/-- Writing an operation (R110, R112, R116). -/
def encode : Instr → Wire
  | .hpParse frame => encodeS 0x10#8 frame
  | .rbWrite bytes => encodeS 0x20#8 bytes
  | .rbAvail => .command [0x21#8]
  | .rbConsume len => encodeW 0x22#8 len
  | .rbOvf => .command [0x23#8]
  | .dmxDecode n => encodeW 0x30#8 n
  | .caProduce requested => encodeW 0x40#8 requested
  | .csCfg arg => encodeW 0x50#8 arg
  | .csStart => .command [0x51#8]
  | .csStop => .command [0x52#8]
  | .csFrame frame => encodeS 0x53#8 frame
  | .csRdreg n => encodeW 0x54#8 n
  | .csStatus => encodeW 0x54#8 1#32
  | .csReset => .command [0x5F#8]
  | .decPbN p => .decoder 0b010#3 p
  | .decPbS p => .decoder 0b011#3 p
  | .decP4N p => .decoder 0b100#3 p
  | .decP4S p => .decoder 0b101#3 p
  | .decPfN p => .decoder 0b110#3 p
  | .decPfS p => .decoder 0b111#3 p

/-- Whether `op` is an operation code of format W, whose rows the table writes as one 40-bit number. -/
def isFormatW (op : Byte) : Bool :=
  match formatOf op with
  | some (.w _) => true
  | _ => false

/-- The first `n` bytes of the number `w`, its least significant byte first. -/
def bytesLowFirst : Nat → Nat → List Byte
  | 0, _ => []
  | n + 1, w => BitVec.ofNat 8 w :: bytesLowFirst n (w / 256)

/-- `bytes` with the zero bytes after it that its format asks for: the bits the opcode table gives no place. -/
def padCommand (bytes : List Byte) : List Byte :=
  match bytes with
  | [] => []
  | op :: rest =>
    match formatOf op with
    | some (.w _) => op :: (rest ++ List.replicate (4 - rest.length) 0)
    | some (.s _) =>
      match rest with
      | [] => [op, 0, 0]
      | [hi] => op :: hi :: 0 :: List.replicate (lenOfBytes hi 0) 0
      | hi :: lo :: data => op :: hi :: lo :: (data ++ List.replicate (lenOfBytes hi lo - data.length) 0)
    | _ => bytes

/-- The operation whose opcode-table bits are `w`, laid out as an agent issues it (log 13).
A row of 3 bits is a decoder's `SEL`, at stream offset 0; no command code is below 8.
A command's byte 0 is in bits 7:0. A format W row may also be written as the table writes it, `OP` in bits 39:32. -/
def wireOfTableWord (nbits w : Nat) : Wire :=
  if nbits ≤ 8 && w < 8 then .decoder (BitVec.ofNat 3 w) 0
  else if nbits == 40 && !isFormatW (BitVec.ofNat 8 w) && isFormatW (BitVec.ofNat 8 (w / 2 ^ 32)) then
    .command (bytesLowFirst 5 w).reverse
  else .command (padCommand (bytesLowFirst ((nbits + 7) / 8) w))

/-- The operation the decoder reads from an opcode-table word; none where it refuses. -/
def decodeTableWord (nbits w : Nat) : Option Instr :=
  match decode (wireOfTableWord nbits w) with
  | .ok i => some i
  | .error _ => none

end Sys2Proof
end

