-- ==== Sys2Proof/Machine/Ports.lean ====
section
/-! DEFINITION. Roles: which agent may issue which operation (R21, R65, R112, R163, R251). -/

namespace Sys2Proof.Machine

/-- The port column of R112: the roles whose port takes an operation from outside; none for an internal operation, which runs only
inside CS.FRAME or CA.PRODUCE (R21). CS.STATUS is CS.RDREG (R220). -/
def ports : Instr → List Agent
  | .csFrame _ => [.producer]
  | .caProduce _ => [.consumer]
  | .rbAvail => [.consumer, .owner]
  | .rbOvf | .csCfg _ | .csStart | .csStop | .csRdreg _ | .csStatus | .csReset => [.owner]
  | .hpParse _ | .rbWrite _ | .rbConsume _ | .dmxDecode _ => []
  | .decPbN _ | .decPbS _ | .decP4N _ | .decP4S _ | .decPfN _ | .decPfS _ => []

/-- The operations some role may issue from outside; the others are internal (R21, R112). -/
def isExternal (i : Instr) : Bool := !(ports i).isEmpty

/-- RB.AVAIL and RB.OVF may be issued by anyone (R163). -/
def openToAll : Instr → Bool
  | .rbAvail | .rbOvf => true
  | .hpParse _ | .rbWrite _ | .rbConsume _ | .dmxDecode _ | .caProduce _ | .csCfg _ | .csStart | .csStop | .csFrame _
  | .csRdreg _ | .csStatus | .csReset => false
  | .decPbN _ | .decPbS _ | .decP4N _ | .decP4S _ | .decPfN _ | .decPfS _ => false

/-- Whether an agent may issue an operation: a role, the operations of its port and the two reads that R163 opens to anyone; a test
bench, every operation (R21, R112, R163). For RB.AVAIL and RB.OVF the port column of R112 and R251 name fewer roles than R163 and no
ruling chooses; DESIGN CHOICE: what any of the three rules allows is allowed (log 25). -/
def mayIssue (a : Agent) (i : Instr) : Bool := a == .testBench || openToAll i || (ports i).contains a

/-- What no port takes: the call of a decoder, and a command of an internal operation (R21, R112, R116). -/
def benchOnly (w : Wire) : Bool :=
  match w with
  | .decoder _ _ => true
  | .command bytes =>
    match decodeCommand bytes with
    | .ok i => !isExternal i
    | .error _ => false

end Sys2Proof.Machine
end

