-- ==== Sys2Proof/Machine/Fetch.lean ====
section
/-! DEFINITION. Reading a request as an operation, what becomes of a request that is none, and the request that stands for an
opcode-table word. -/

namespace Sys2Proof.Machine

/-- Why the block does not run a request. -/
inductive Rejection where
  /-- it reads as no operation -/
  | unread (e : DecodeError)
  /-- no port takes it, and no test bench issued it (log 25) -/
  | internalOnly
deriving DecidableEq, Repr

/-- The operation a request stands for. Internal operations are taken from a test bench alone (R21, R112, log 25). Roles are not
policed: an operation that has a port is taken whichever role the request names (R251, log 15). -/
def fetch (r : Request) : Except Rejection Instr :=
  if r.agent ≠ .testBench ∧ benchOnly r.wire = true then .error .internalOnly
  else
    match decode r.wire with
    | .ok i => .ok i
    | .error e => .error (.unread e)

/-- A request that is not run. `waiting` is the state with the request still queued, `taken` with it in hand.
An incomplete command is none: the block waits for the rest (R122, log 5). The spec does not say whether the operations of other
agents wait behind it; DESIGN CHOICE: it stays at the head of the one queue, and every later request waits behind it (log 5).
An unknown `OP` is answered `Refused(UnknownOp)` with no change of state (R122, R245). A command longer than its format has no
stated meaning (log 6). `SEL` = 0b00x is the unreachable selection of R116 and R120 (R247). An internal operation that no test
bench issued has no stated meaning (log 25). -/
def rejectRequest (waiting taken : State) : Rejection → Result
  | .unread .incomplete => .next waiting
  | .unread (.unknownOp _) => raise taken (.refused .unknownOp)
  | .unread .overlong => .refused .overlongCommand
  | .unread (.noDecoder _) => .fault .unconfiguredDecode
  | .internalOnly => .refused .internalOperation

/-- The request a test bench issues for an opcode-table word, under the environment answers the state holds (log 3, log 13). -/
def tableRequest (s : State) (nbits w : Nat) : Request :=
  { agent := .testBench, wire := wireOfTableWord nbits w, startEnv := s.startEnv, stopEnv := s.stopEnv, arrays := none }

/-- A request issued so that it is the next one taken. -/
def State.issueFirst (s : State) (r : Request) : State := { s with queue := r :: s.queue }

end Sys2Proof.Machine
end

