-- ==== Sys2Proof/Machine/Step.lean ====
section
/-! DEFINITION. One step: the next operation of the total order (R74, R77). -/

namespace Sys2Proof.Machine

/-- The block takes the request at the head of the queue, reads it, and runs it as one atomic step (R74, R77).
With nothing issued it does nothing (R266, log 4). -/
def step (s : State) : Host.Outcome State Fault Refusal :=
  match s.queue with
  | [] => .next s
  | r :: rest =>
    match fetch r with
    | .ok i => exec i (s.take r rest)
    | .error e => rejectRequest s (s.take r rest) e

/-- The state in which a test bench has issued the operation of an opcode-table word, next in the queue (log 3). -/
def State.withFetchWord (s : State) (nbits w : Nat) : State := s.issueFirst (tableRequest s nbits w)

end Sys2Proof.Machine
end

