-- ==== Sys2Proof/Safety.lean ====
section
/-! DEFINITION. What the spec promises of states and runs, in the terms claims use: the invariants, the byte stream, the ports, the end of a run. -/

namespace Sys2Proof.Machine

/-! ### Reachable states -/

/-- What holds of the block in every reachable state. -/
structure Inv (s : State) : Prop where
  /-- `C ≥ 1` (R8) -/
  capPos : 1 ≤ s.cap
  /-- `0 ≤ count ≤ C` (R27) -/
  countLe : s.count ≤ s.cap
  /-- `WR` is a modulo-`C` index (R25) -/
  wrLt : s.wr < s.cap
  /-- `RD` is a modulo-`C` index (R26) -/
  rdLt : s.rd < s.cap
  /-- `WR = (RD + COUNT) mod C` (R28) -/
  wrEq : s.wr = (s.rd + s.count) % s.cap
  /-- `MEM` is in canonical form -/
  memWf : Memory.wf s.mem
  /-- `MEM` has the indices `0 .. C-1` and no others (R24) -/
  memRange : ∀ i, s.cap ≤ i → cellGet s.mem i = none
  /-- every unconsumed byte has been written since the last reset (R45) -/
  written : ∀ k, k < s.count → (cellGet s.mem ((s.rd + k) % s.cap)).isSome
  /-- the reserved bits of `CFGR` read 0 (R33) -/
  reserved : s.cfgr &&& cfgrMask = s.cfgr
  /-- a configuration that passed the checks of CS.CFG (R39, R206) -/
  configuredLegal : s.configured = true →
    fmtField s.cfgr ≠ 0#2 ∧ 1 ≤ (nchField s.cfgr).toNat ∧ (nchField s.cfgr).toNat ≤ 4
      ∧ (nchField s.cfgr).toNat ≤ (nwiredField s.cfgr).toNat
  /-- `SESSION` = Capturing implies `CONFIGURED` = 1 (R223) -/
  capturingConfigured : s.session = .capturing → s.configured = true
  /-- the elements of `OUT` are kept in canonical form -/
  outWf : cellsWf s.out

/-- The arrays that requests in the queue pass are in canonical form: a premise on the model's own inputs, which the
spec's state does not hold. -/
def queueWf (s : State) : Prop := ∀ r, r ∈ s.queue → ∀ o, r.arrays = some o → cellsWf o

/-! ### The byte stream -/

/-- The unconsumed bytes, oldest first: `RBRead(0) .. RBRead(COUNT - 1)` (R69, R156). -/
def stream (s : State) : List Byte := (List.range s.count).map (streamByte s)

/-- A byte queue of capacity `cap` offered a write: the whole payload or nothing (R76). -/
def fifoOffer (cap : Nat) (q payload : List Byte) : List Byte :=
  if payload.length ≤ cap - q.length then q ++ payload else q

/-- The payload a CS.FRAME offers to the ring buffer: none in Idle and none where HP.PARSE answers `NA` (R215). -/
def framePayload (frame : List Byte) (s : State) : Option (List Byte) :=
  if s.session = .idle then none
  else (parseFrame (portField s.cfgr) frame).map (fun p => payloadOf frame p.1 p.2)

/-- The payload an operation offers to the ring buffer (R31, R218). -/
def offered (i : Instr) (s : State) : Option (List Byte) :=
  match i with
  | .rbWrite bytes => some bytes
  | .csFrame frame => framePayload frame s
  | .hpParse _ | .rbAvail | .rbConsume _ | .rbOvf | .dmxDecode _ | .caProduce _ | .csCfg _ | .csStart | .csStop
  | .csRdreg _ | .csStatus | .csReset => none
  | .decPbN _ | .decPbS _ | .decP4N _ | .decP4S _ | .decPfN _ | .decPfS _ => none

/-- What an operation does to the byte queue the ring buffer stands for, with `s` the state it runs in (R161).
`produced` is the number of samples per channel a CA.PRODUCE delivers. -/
def fifoNext (i : Instr) (s : State) (q : List Byte) : List Byte :=
  match i with
  | .rbWrite bytes => fifoOffer s.cap q bytes
  | .csFrame frame =>
    match framePayload frame s with
    | none => q
    | some bytes => fifoOffer s.cap q bytes
  | .rbConsume len => q.drop len.toNat
  | .dmxDecode n => q.drop (n.toNat * groupSize s.cfgr)
  | .caProduce requested =>
    if s.configured = false then q
    else q.drop (min requested.toNat (q.length / groupSize s.cfgr) * groupSize s.cfgr)
  | .csCfg arg =>
    if s.session = .capturing ∨ fmtField arg = 0#2 ∨ badChannelCount arg = true then q else []
  | .csReset => []
  | .hpParse _ | .rbAvail | .rbOvf | .csStart | .csStop | .csRdreg _ | .csStatus => q
  | .decPbN _ | .decPbS _ | .decP4N _ | .decP4S _ | .decPfN _ | .decPfS _ => q

/-- The bytes written and the number of bytes consumed since the last reset or configuration, `S` and `T` of R161. -/
structure Ledger where
  written : List Byte
  consumed : Nat
deriving DecidableEq, Repr

/-- How the ledger moves when operation `i` takes state `s` to state `t` (R161). A write counts when it is answered `Ok` or, in a
CS.FRAME, when its payload fits; a decode counts the bytes it is told to take; CA.PRODUCE those of the groups it delivers. -/
def ledgerNext (i : Instr) (s t : State) (l : Ledger) : Ledger :=
  match i with
  | .rbWrite bytes => if t.resp = .ok then { l with written := l.written ++ bytes } else l
  | .csFrame frame =>
    match framePayload frame s with
    | none => l
    | some bytes => if t.count = s.count + bytes.length then { l with written := l.written ++ bytes } else l
  | .rbConsume len => { l with consumed := l.consumed + len.toNat }
  | .dmxDecode n => { l with consumed := l.consumed + n.toNat * groupSize s.cfgr }
  | .caProduce _ =>
    match t.resp with
    | .word produced => { l with consumed := l.consumed + produced.toNat * groupSize s.cfgr }
    | _ => l
  | .csCfg _ => if t.resp = .ok then { written := [], consumed := 0 } else l
  | .csReset => { written := [], consumed := 0 }
  | .hpParse _ | .rbAvail | .rbOvf | .csStart | .csStop | .csRdreg _ | .csStatus => l
  | .decPbN _ | .decPbS _ | .decP4N _ | .decP4S _ | .decPfN _ | .decPfS _ => l

/-- A sequence of operations run one after the other with its ledger; none if one of them stops. -/
def runLedger : List Instr → State → Ledger → Option (State × Ledger)
  | [], s, l => some (s, l)
  | i :: rest, s, l =>
    match exec i s with
    | .next t => runLedger rest t (ledgerNext i s t l)
    | .fault _ => none
    | .refused _ => none

/-- One contiguous copy to indices `start, start + 1, ...`. -/
def storeFrom : Memory → Nat → List Byte → Memory
  | m, _, [] => m
  | m, start, b :: rest => storeFrom (cellSet m start b) (start + 1) rest

/-- The two-part copy of R153: `t = min(L, C - WR)` bytes at `WR`, and the rest at index 0. -/
def twoPartStore (cap : Nat) (m : Memory) (wr : Nat) (bytes : List Byte) : Memory :=
  storeFrom (storeFrom m wr (bytes.take (min bytes.length (cap - wr)))) 0 (bytes.drop (min bytes.length (cap - wr)))

/-! ### What makes a frame acceptable, by the numbers of R98 -/

/-- Byte `i` of a frame as a number; 0 stands for a byte not captured, and every use has it captured. -/
def hdrByte (frame : List Byte) (i : Nat) : Nat := (frame.getD i 0#8).toNat

/-- `u`: 14 and four times the low four bits of byte 14 (R98). -/
def hdrUdp (frame : List Byte) : Nat := 14 + hdrByte frame 14 % 16 * 4

/-- `dport` (R98). -/
def hdrPort (frame : List Byte) : Nat := hdrByte frame (hdrUdp frame + 2) * 256 + hdrByte frame (hdrUdp frame + 3)

/-- `ulen` (R98). -/
def hdrUlen (frame : List Byte) : Nat := hdrByte frame (hdrUdp frame + 4) * 256 + hdrByte frame (hdrUdp frame + 5)

/-- The conditions of R132 to R137 together: ethertype 08 00, the headers captured, the port, and a payload of `ulen - 8` bytes,
not negative and wholly captured. -/
abbrev acceptable (port : Nat) (frame : List Byte) : Prop :=
  15 ≤ frame.length ∧ hdrByte frame 12 = 0x08 ∧ hdrByte frame 13 = 0x00 ∧ hdrUdp frame + 8 ≤ frame.length ∧
    hdrPort frame = port ∧ 8 ≤ hdrUlen frame ∧ hdrUdp frame + hdrUlen frame ≤ frame.length

/-! ### Roles -/

/-- Every request in the queue comes from an agent that may issue what it reads as (R21, R112, R163): what the roles promise,
and the block does not check (R251). -/
def rolesRespected (s : State) : Prop := ∀ r, r ∈ s.queue → ∀ i, decode r.wire = .ok i → mayIssue r.agent i = true

/-- The operations that only read: they write no element of the block's state and nothing of `OUT` (R75). -/
def isRead : Instr → Bool
  | .hpParse _ | .rbAvail | .rbOvf | .csRdreg _ | .csStatus => true
  | .decPbN _ | .decPbS _ | .decP4N _ | .decP4S _ | .decPfN _ | .decPfS _ => true
  | .rbWrite _ | .rbConsume _ | .dmxDecode _ | .caProduce _ | .csCfg _ | .csStart | .csStop | .csFrame _ | .csReset => false

/-- The operations that can write into the ring buffer: RB.WRITE, and CS.FRAME which performs one (R31, R251). -/
def canWriteRing : Instr → Bool
  | .rbWrite _ | .csFrame _ => true
  | .hpParse _ | .rbAvail | .rbConsume _ | .rbOvf | .dmxDecode _ | .caProduce _ | .csCfg _ | .csStart | .csStop
  | .csRdreg _ | .csStatus | .csReset => false
  | .decPbN _ | .decPbS _ | .decP4N _ | .decP4S _ | .decPfN _ | .decPfS _ => false

/-- A request whose operation neither starts a capture nor is the test bench's own RB.WRITE. -/
def noStartNoWrite (r : Request) : Prop :=
  ∀ i, decode r.wire = .ok i → i ≠ .csStart ∧ ∀ bytes, i ≠ .rbWrite bytes

/-- The lifecycle table of R222: `SESSION` and `CONFIGURED` after operation `i` in state `s`. -/
def lifecycleNext (i : Instr) (s : State) : Session × Bool :=
  match i with
  | .csReset => (.idle, false)
  | .csCfg arg =>
    if s.session = .idle then (.idle, fmtField arg ≠ 0#2 && !badChannelCount arg) else (s.session, s.configured)
  | .csStart =>
    if s.session = .idle ∧ s.configured = true ∧ s.startEnv = .ok then (.capturing, true) else (s.session, s.configured)
  | .csStop =>
    if s.session = .capturing ∧ s.stopEnv = .ok then (.idle, s.configured) else (s.session, s.configured)
  | .hpParse _ | .rbWrite _ | .rbAvail | .rbConsume _ | .rbOvf | .dmxDecode _ | .caProduce _ | .csFrame _ | .csRdreg _
  | .csStatus => (s.session, s.configured)
  | .decPbN _ | .decPbS _ | .decP4N _ | .decP4S _ | .decPfN _ | .decPfS _ => (s.session, s.configured)

/-! ### Output values -/

/-- The number a finite binary32 pattern stands for: sign, 8-bit exponent of bias 127, 23-bit fraction (R105, G8). -/
def f32Value (w : Word) : ℚ :=
  let sign : ℚ := if w.extractLsb' 31 1 = 1#1 then -1 else 1
  let e := (w.extractLsb' 23 8).toNat
  let frac := (w.extractLsb' 0 23).toNat
  if e = 0 then sign * frac / 2 ^ 149
  else sign * (2 ^ 23 + frac : ℚ) * 2 ^ e / 2 ^ 150

/-! ### Runs -/

/-- A faulted state: never final (R238). -/
def isFaulted (s : State) : Bool := s.faulted

/-- One operation run: who issued it, what it was, and what it answered (R14, R115). -/
structure Event where
  agent : Agent
  op : Instr
  answer : Response
deriving DecidableEq, Repr

/-- The operation the step from `s` to `t` ran; none where nothing was issued or the request was none. -/
def stepEvents (s t : State) : List Event :=
  match s.queue with
  | [] => []
  | r :: _ =>
    match fetch r with
    | .ok i => [{ agent := r.agent, op := i, answer := t.resp }]
    | .error _ => []

/-- `k` steps: the state reached and the operations run, oldest first; none if a step stops. -/
def runEvents : Nat → State → Option (State × List Event)
  | 0, s => some (s, [])
  | k + 1, s =>
    match step s with
    | .next t => (runEvents k t).map (fun r => (r.1, stepEvents s t ++ r.2))
    | .fault _ => none
    | .refused _ => none

/-- CS.STOP, one of the two operations whose last response R282 asks for. -/
def isStop (i : Instr) : Bool := i == .csStop

/-- CA.PRODUCE, the other. -/
def isProduce : Instr → Bool
  | .caProduce _ => true
  | .hpParse _ | .rbWrite _ | .rbAvail | .rbConsume _ | .rbOvf | .dmxDecode _ | .csCfg _ | .csStart | .csStop | .csFrame _
  | .csRdreg _ | .csStatus | .csReset => false
  | .decPbN _ | .decPbS _ | .decP4N _ | .decP4S _ | .decPfN _ | .decPfS _ => false

/-- The response of the last operation of a kind that an agent issued. -/
def lastAnswer (a : Agent) (kind : Instr → Bool) (events : List Event) : Option Response :=
  (events.filter (fun e => e.agent == a && kind e.op)).getLast?.map (·.answer)

/-- A run is over (R282): the owner's last CS.STOP answered `Ok`, the consumer's last CA.PRODUCE answered 0, and the state
reached is Idle, not faulted, with less than one group left (log 26). R282 does not say whether a run is over while `CONFIGURED` = 0,
where there is no group size (R201). DESIGN CHOICE: `CONFIGURED` is not tested and `G` is that of `CFGR` as it stands; so after a
CS.RESET, where it is 0, no run is over, and after a failed CS.CFG the `G` of the last configuration counts (log 26). -/
abbrev runOver (events : List Event) (s : State) : Prop :=
  lastAnswer .owner isStop events = some .ok ∧ s.session = .idle ∧ isFaulted s = false ∧
    lastAnswer .consumer isProduce events = some (.word 0#32) ∧ s.count < groupSize s.cfgr

end Sys2Proof.Machine
end

