-- ==== Sys2Proof/Certificates/Slice0/Obligations.lean ====
section
/-! DEFINITION. The statements for the provers. Each docstring names the rules of spec/ it rests on; OBLIGATIONS.json cites those it states whole. -/

open Sys2Proof Sys2Proof.Machine

/-! ### Encoding -/

/-- Every well-formed operation is read back from its encoding, with every operand (R110, R112, R116, R220). -/
def Obligations.DecodeInvertsEncode : Prop :=
  ∀ i : Instr, wellFormed i = true → decode (encode i) = .ok i

/-- Whatever is read as an operation is that operation's only encoding: no byte, no bit and no operand is dropped. -/
def Obligations.EncodeInvertsDecode : Prop :=
  ∀ (w : Wire) (i : Instr), decode w = .ok i → wellFormed i = true ∧ encode i = w

/-- Command bytes written out from R110, R112, R113 and selectors from R116 read as the operations they stand for. -/
def Obligations.SpecWordsDecode : Prop :=
  decode (.command [0x10, 0x00, 0x02, 0xAA, 0xBB]) = .ok (.hpParse [0xAA, 0xBB]) ∧
  decode (.command [0x20, 0x00, 0x03, 0xA0, 0xA1, 0xA2]) = .ok (.rbWrite [0xA0, 0xA1, 0xA2]) ∧
  decode (.command [0x40, 0x00, 0x00, 0x00, 0x04]) = .ok (.caProduce 4) ∧
  decode (.command [0x50, 0x01, 0x11, 0x04, 0xD2]) = .ok (.csCfg 0x011104D2) ∧
  decode (.command [0x51]) = .ok .csStart ∧
  decode (.decoder 0b100 7) = .ok (.decP4N 7)

/-! ### The step -/

/-- The step takes the request at the head of the queue and runs the operation it reads as, in the state where the request has left
the queue and its inputs are in hand, if the operation has a port or a test bench issued it; an internal operation from a port's agent
is refused by the model (R21, R112, R74). The model's own: the queue as the form of the total order (log 2, log 3), the environment
fields (log 8), the issuer field (log 9), the arrays and that they stay in place where the request brings none (log 10), and the
refusal (log 25). -/
def Obligations.StepRunsDecodedOperation : Prop :=
  ∀ (s : State) (r : Request) (rest : List Request) (i : Instr),
    s.queue = r :: rest → decode r.wire = .ok i → wellFormed i = true →
      (r.agent = .testBench ∨ isExternal i = true →
        step s = exec i { s with queue := rest, issuer := r.agent, startEnv := r.startEnv, stopEnv := r.stopEnv,
                                 out := r.arrays.getD s.out }) ∧
      (r.agent ≠ .testBench → isExternal i = false → step s = .refused .internalOperation)

/-- An opcode-table word placed for the next step is what the next step runs. The placing is the model's own (log 3, log 13). -/
def Obligations.PlacedTableWordRuns : Prop :=
  ∀ (s : State) (nbits w : Nat) (i : Instr), decodeTableWord nbits w = some i →
    step (s.withFetchWord nbits w) = exec i { s with issuer := .testBench }

/-- With nothing issued the block does nothing (R266); and a command of format S with fewer data bytes than its `LEN` announces
is not a command: the block waits for the rest (R122). The model's own choices: a step with nothing to run answers the same state
(log 4), and the short command stays at the head of the one queue, so that whatever other agents have queued waits behind it (log 5,
DESIGN CHOICE; R122 does not say so). -/
def Obligations.BlockWaitsWithoutWholeCommand : Prop :=
  ∀ s : State,
    (s.queue = [] → step s = .next s) ∧
    (∀ (r : Request) (rest : List Request) (op hi lo : Byte) (data : List Byte),
      s.queue = r :: rest → r.wire = .command (op :: hi :: lo :: data) → op = 0x10 ∨ op = 0x20 ∨ op = 0x53 →
      data.length < hi.toNat * 256 + lo.toNat → step s = .next s)

/-- An `OP` byte outside R112 is answered `Refused(UnknownOp)`, kind 0x10 and cause 4, whatever bytes follow it; no element of
the block's state changes (R122, R245). The issuer, the inputs and the queue are the model's own and are those of the request. -/
def Obligations.UnknownOpIsRefused : Prop :=
  ∀ (s : State) (r : Request) (rest : List Request) (op : Byte) (more : List Byte),
    s.queue = r :: rest → r.wire = .command (op :: more) →
    op.toNat ∉ [0x10, 0x20, 0x21, 0x22, 0x23, 0x30, 0x40, 0x50, 0x51, 0x52, 0x53, 0x54, 0x5F] →
      step s = .next { s with queue := rest, issuer := r.agent, startEnv := r.startEnv, stopEnv := r.stopEnv,
                              out := r.arrays.getD s.out, resp := .refused .unknownOp } ∧
      kindCode (.refused .unknownOp) = some 0x10 ∧ causeCode (.refused .unknownOp) = some 4

/-- The kind and cause codes of R231 and R245. -/
def Obligations.ResponseCodesFollowTable : Prop :=
  kindCode .ok = some 0x00 ∧
  kindCode (.startupError .deviceOpen) = some 0x01 ∧ causeCode (.startupError .deviceOpen) = some 1 ∧
  kindCode (.startupError .socketBind) = some 0x01 ∧ causeCode (.startupError .socketBind) = some 2 ∧
  kindCode (.configurationError .unknownFormat) = some 0x02 ∧ causeCode (.configurationError .unknownFormat) = some 1 ∧
  kindCode (.configurationError .channelCount) = some 0x02 ∧ causeCode (.configurationError .channelCount) = some 2 ∧
  kindCode .fail = some 0x03 ∧ kindCode .na = some 0x04 ∧ kindCode .shutdownError = some 0x05 ∧
  kindCode (.refused .notIdle) = some 0x10 ∧ causeCode (.refused .notIdle) = some 1 ∧
  kindCode (.refused .notConfigured) = some 0x10 ∧ causeCode (.refused .notConfigured) = some 2 ∧
  kindCode (.refused .notCapturing) = some 0x10 ∧ causeCode (.refused .notCapturing) = some 3 ∧
  kindCode (.refused .unknownOp) = some 0x10 ∧ causeCode (.refused .unknownOp) = some 4

/-! ### Reset and the invariant -/

/-- CS.RESET completes in any state, answers nothing, and leaves the block's own state at the values of R44, which are those of
power-on. `MEM` becomes unspecified: no byte is listed, and the free values are those of a new epoch (the model's form, log 7). The
capacity and the fields that are not state of the block keep their values (log 21). -/
def Obligations.ResetLeavesInitialState : Prop :=
  (∀ s : State, exec .csReset s =
    .next { s with session := .idle, configured := false, faulted := false, cfgr := 0, wr := 0, rd := 0, count := 0, ovf := 0,
                   mem := [], memEpoch := s.memEpoch + 1, resp := .none }) ∧
  State.reset.session = .idle ∧ State.reset.configured = false ∧ State.reset.faulted = false ∧ State.reset.cfgr = 0 ∧
  State.reset.wr = 0 ∧ State.reset.rd = 0 ∧ State.reset.count = 0 ∧ State.reset.ovf = 0 ∧ State.reset.mem = []

/-- The invariant holds at power-on, whatever the capacity. -/
def Obligations.ResetMeetsInvariant : Prop :=
  Inv State.reset ∧ queueWf State.reset

/-- Every step keeps the invariant: the cursor and occupancy bounds, `WR = (RD + COUNT) mod C`, written bytes only, the reserved
bits of `CFGR`, a legal configuration where `CONFIGURED` = 1, `CONFIGURED` = 1 while Capturing, and memory in canonical form. -/
def Obligations.StepKeepsInvariant : Prop :=
  ∀ s t : State, Inv s → queueWf s → step s = .next t → Inv t ∧ queueWf t

/-- In every state that meets the invariant, every operation an agent may issue from outside answers: no model-only fault is
reached through the ports, and nothing is refused by the model (R247). -/
def Obligations.ExternalOperationsAlwaysAnswer : Prop :=
  ∀ (i : Instr) (s : State), Inv s → isExternal i = true → ∃ t, exec i s = .next t

/-- No model-only fault is reached through the three ports: in a state that meets the invariant, whatever the request at the head
of the queue holds, the step does not fault if a role and no test bench issued it (R247). -/
def Obligations.PortRequestsNeverFault : Prop :=
  ∀ (s : State) (r : Request) (rest : List Request) (f : Fault),
    Inv s → queueWf s → s.queue = r :: rest → r.agent ≠ .testBench → step s ≠ .fault f

/-! ### HeaderParser -/

/-- HP.PARSE completes in every state, writes nothing but its response, and answers `Accept(u + 8, ulen - 8)` exactly for the
frames that meet every condition of R132 to R137, `NA` for every other (R130, R138). -/
def Obligations.ParseAcceptsExactlyGoodFrames : Prop :=
  ∀ (frame : List Byte) (s : State),
    (acceptable (s.cfgr.toNat % 65536) frame →
      exec (.hpParse frame) s = .next { s with resp := .accept (hdrUdp frame + 8) (hdrUlen frame - 8) }) ∧
    (¬ acceptable (s.cfgr.toNat % 65536) frame → exec (.hpParse frame) s = .next { s with resp := .na })

/-- HP.PARSE never reads a byte at or beyond `caplen`: whatever stands there, the result is the same; and it answers `NA` below
each of the three cut-off points of R131. -/
def Obligations.ParseReadsCapturedBytesOnly : Prop :=
  ∀ (port : BitVec 16) (frame : List Byte) (beyond beyond' : Nat → Byte),
    parseFrameWith beyond port frame = parseFrameWith beyond' port frame ∧
    (frame.length < 14 → parseFrameWith beyond port frame = none) ∧
    (frame.length < 15 → parseFrameWith beyond port frame = none) ∧
    (frame.length < hdrUdp frame + 8 → parseFrameWith beyond port frame = none)

/-- Where an accepted payload lies: its offset is 22 to 82, it ends inside the frame, it is the `ulen - 8` bytes announced, and of a
frame of at most `MAXCAP` bytes it is at most 65513 bytes (R138, R143, R145). -/
def Obligations.AcceptedPayloadLiesInFrame : Prop :=
  ∀ (port : BitVec 16) (frame : List Byte) (off len : Nat), parseFrame port frame = some (off, len) →
    22 ≤ off ∧ off ≤ 82 ∧ off + len ≤ frame.length ∧ len + 8 = hdrUlen frame ∧
    (payloadOf frame off len).length = len ∧ (frame.length ≤ 65535 → len ≤ 65513)

/-! ### RingBuffer -/

/-- A write that fits completes: byte `k` goes to index `(WR + k) mod C`, `WR` and `COUNT` move by the length, the answer is `Ok`.
Every other index reads as before, nothing else changes, and no unconsumed byte is overwritten (R152). -/
def Obligations.WriteThatFitsIsStored : Prop :=
  ∀ (bytes : List Byte) (s : State), s.count ≤ s.cap → bytes.length ≤ s.cap - s.count →
    ∃ t, exec (.rbWrite bytes) s = .next t ∧
      t = { s with mem := t.mem, wr := (s.wr + bytes.length) % s.cap, count := s.count + bytes.length, resp := .ok } ∧
      (∀ k (h : k < bytes.length), memByte t ((s.wr + k) % s.cap) = bytes[k]) ∧
      (∀ a, (∀ k, k < bytes.length → a ≠ (s.wr + k) % s.cap) → memByte t a = memByte s a) ∧
      (Inv s → ∀ k, k < s.count → streamByte t k = streamByte s k)

/-- A write of more than the free space completes with `Fail`: `OVF` goes up by one, saturating, and cursors, count and contents
are unchanged (R151, R29, R76). -/
def Obligations.WriteThatOverflowsIsCounted : Prop :=
  ∀ (bytes : List Byte) (s : State), s.cap - s.count < bytes.length →
    exec (.rbWrite bytes) s =
      .next { s with ovf := if s.ovf.toNat = 2 ^ 32 - 1 then s.ovf else s.ovf + 1, resp := .fail }

/-- The corner cases of R154 on one state: an empty write is `Ok` and changes nothing, even when full; a write of exactly the free
space fills the buffer and leaves `WR = RD`; a write longer than `C` fails in every state. -/
def Obligations.WriteCornerCases : Prop :=
  ∀ s : State, Inv s →
    exec (.rbWrite []) s = .next { s with resp := .ok } ∧
    (∀ bytes, bytes.length = s.cap - s.count → ∃ t, exec (.rbWrite bytes) s = .next t ∧ t.resp = .ok ∧ t.count = s.cap ∧ t.wr = t.rd) ∧
    (∀ bytes, s.cap < bytes.length → ∃ t, exec (.rbWrite bytes) s = .next t ∧ t.resp = .fail)

/-- The modulo-`C` store is the two-part copy of R153: the tail segment at `WR`, then the head segment at index 0. -/
def Obligations.StoreIsTwoPartCopy : Prop :=
  ∀ (cap : Nat) (m : Memory) (wr : Nat) (bytes : List Byte), wr < cap → bytes.length ≤ cap →
    ringStore cap m wr bytes = twoPartStore cap m wr bytes

/-- RB.AVAIL and RB.OVF complete in every state and change nothing but the response. RB.AVAIL answers `COUNT` and RB.OVF answers
`OVF`, the same values as CS.RDREG(2) and CS.RDREG(3); bytes 21 and 23 are their commands (R155, R160). A `COUNT` of `2^32` or more has no stated 32-bit response (log 11). -/
def Obligations.AvailAndOvfAnswerCounters : Prop :=
  decode (.command [0x21]) = .ok .rbAvail ∧ decode (.command [0x23]) = .ok .rbOvf ∧ ∀ s : State,
    (∃ v : Word, exec .rbAvail s = .next { s with resp := .word v } ∧ exec (.csRdreg 2) s = .next { s with resp := .word v } ∧
      (s.count < 2 ^ 32 → v.toNat = s.count)) ∧
    exec .rbOvf s = .next { s with resp := .word s.ovf } ∧ exec (.csRdreg 3) s = .next { s with resp := .word s.ovf }

/-- RB.CONSUME within `COUNT` completes: `RD` becomes `(RD + len) mod C`, `COUNT` becomes `COUNT - len`, nothing else changes (R158). -/
def Obligations.ConsumeMovesReadCursor : Prop :=
  ∀ (len : Word) (s : State), len.toNat ≤ s.count →
    exec (.rbConsume len) s = .next { s with rd := (s.rd + len.toNat) % s.cap, count := s.count - len.toNat, resp := .none }

/-- RB.CONSUME of more than `COUNT` is the model-only fault ConsumeBeyondCount (R159, R247). -/
def Obligations.ConsumeBeyondCountFaults : Prop :=
  ∀ (len : Word) (s : State), s.count < len.toNat → exec (.rbConsume len) s = .fault .consumeBeyondCount

/-- The ring buffer refines a byte queue of capacity `C`: in every state that meets the invariant, whatever operation runs, the
stream of unconsumed bytes becomes what the queue becomes (R69, R76, R161). -/
def Obligations.RingBufferRefinesByteQueue : Prop :=
  ∀ (i : Instr) (s t : State), Inv s → exec i s = .next t → stream t = fifoNext i s (stream s)

/-- Round trip (R161): over any sequence of operations from an empty buffer, with `S` the bytes of the writes that succeeded and `T`
the bytes consumed since the last reset or configuration, `COUNT = len(S) - T` and `RBRead(k) = S[T + k]` for every `k < COUNT`. -/
def Obligations.BytesReadBackEqualBytesWritten : Prop :=
  ∀ (ops : List Instr) (s t : State) (l : Ledger), Inv s → s.count = 0 →
    runLedger ops s { written := [], consumed := 0 } = some (t, l) →
      l.consumed ≤ l.written.length ∧ t.count = l.written.length - l.consumed ∧
      ∀ k, k < t.count → rbRead t k = .ok (l.written.getD (l.consumed + k) 0)

/-! ### The decoders -/

/-- The two PackedByte decoders complete on two unconsumed bytes and change nothing but the response: non-swapped is
complex(byte1, byte0), swapped complex(byte0, byte1), each byte two's complement; `SEL` 0b010 and 0b011 name them (R173, R174). -/
def Obligations.PackedByteDecodes : Prop :=
  ∀ (p : Nat) (s : State),
    decode (.decoder 0b010 p) = .ok (.decPbN p) ∧ decode (.decoder 0b011 p) = .ok (.decPbS p) ∧ (p + 2 ≤ s.count →
    exec (.decPbN p) s = .next { s with resp := .sample ⟨f32OfInt (streamByte s (p + 1)).toInt, f32OfInt (streamByte s p).toInt⟩ } ∧
    exec (.decPbS p) s = .next { s with resp := .sample ⟨f32OfInt (streamByte s p).toInt, f32OfInt (streamByte s (p + 1)).toInt⟩ })

/-- The two Packed4Bit decoders complete on one unconsumed byte and change nothing but the response: the low nibble is decoded
first; non-swapped makes it real, swapped makes the high nibble real; `SEL` 0b100 and 0b101 name them (R177, R178). Which nibble is real
without the swap is the spec's own inference, decision D15, and not the source's. -/
def Obligations.Packed4BitDecodes : Prop :=
  ∀ (p : Nat) (s : State) (lo hi : BitVec 4),
    decode (.decoder 0b100 p) = .ok (.decP4N p) ∧ decode (.decoder 0b101 p) = .ok (.decP4S p) ∧
    (p + 1 ≤ s.count → streamByte s p = hi ++ lo →
    exec (.decP4N p) s = .next { s with resp := .sample { re := f32OfInt (2 * lo.toInt + 1), im := f32OfInt (2 * hi.toInt + 1) } } ∧
    exec (.decP4S p) s = .next { s with resp := .sample { re := f32OfInt (2 * hi.toInt + 1), im := f32OfInt (2 * lo.toInt + 1) } })

/-- The two PackedFloat decoders complete on eight unconsumed bytes and change nothing but the response: two little-endian 32-bit
patterns pass unchanged, the first real when non-swapped, the second real when swapped; `SEL` 0b110 and 0b111 name
them (R180, R181, R67). -/
def Obligations.PackedFloatDecodes : Prop :=
  ∀ (p : Nat) (s : State),
    decode (.decoder 0b110 p) = .ok (.decPfN p) ∧ decode (.decoder 0b111 p) = .ok (.decPfS p) ∧
    (p + 8 ≤ s.count → ∃ f0 f1 : Word,
    f0.toNat = (streamByte s p).toNat + (streamByte s (p + 1)).toNat * 2 ^ 8 + (streamByte s (p + 2)).toNat * 2 ^ 16
      + (streamByte s (p + 3)).toNat * 2 ^ 24 ∧
    f1.toNat = (streamByte s (p + 4)).toNat + (streamByte s (p + 5)).toNat * 2 ^ 8 + (streamByte s (p + 6)).toNat * 2 ^ 16
      + (streamByte s (p + 7)).toNat * 2 ^ 24 ∧
    exec (.decPfN p) s = .next { s with resp := .sample { re := f0, im := f1 } } ∧
    exec (.decPfS p) s = .next { s with resp := .sample { re := f1, im := f0 } })

/-- The Packed4Bit code map is the formula of R176 and has the table of R176. -/
def Obligations.NibbleMapIsTheTable : Prop :=
  (∀ c : BitVec 4, nib c = if 8 ≤ c.toNat then 2 * ((c.toNat : Int) - 16) + 1 else 2 * (c.toNat : Int) + 1) ∧
  (∀ c : BitVec 4, nib c = 2 * c.toInt + 1) ∧
  (List.range 16).map (fun c => nib (BitVec.ofNat 4 c)) = [1, 3, 5, 7, 9, 11, 13, 15, -15, -13, -11, -9, -7, -5, -3, -1]

/-- `f32_of_int` is exact: for every integer a decoder can meet, the pattern stands for that integer, and 0 is +0 (R12, R105). -/
def Obligations.IntegerPatternsAreExact : Prop :=
  (∀ z : Int, -128 ≤ z → z ≤ 127 → f32Value (f32OfInt z) = z) ∧ f32OfInt 0 = 0x00000000

/-- A decoder called where a byte of its item is not among the unconsumed ones is the model-only fault ReadBeyondCount (R156, R247). -/
def Obligations.DecoderBeyondCountFaults : Prop :=
  ∀ (p : Nat) (s : State),
    (s.count < p + 2 → exec (.decPbN p) s = .fault .readBeyondCount ∧ exec (.decPbS p) s = .fault .readBeyondCount) ∧
    (s.count < p + 1 → exec (.decP4N p) s = .fault .readBeyondCount ∧ exec (.decP4S p) s = .fault .readBeyondCount) ∧
    (s.count < p + 8 → exec (.decPfN p) s = .fault .readBeyondCount ∧ exec (.decPfS p) s = .fault .readBeyondCount)

/-- PackedFloat is bit-exact through the buffer: the eight bytes of any two patterns written, little-endian, into an empty buffer
with room decode to the two patterns, NaNs and signed zeros included (R182, V-SRC-3). -/
def Obligations.PackedFloatRoundTrip : Prop :=
  ∀ (s : State) (a b : Word), Inv s → s.count = 0 → 8 ≤ s.cap →
    ∃ t, exec (.rbWrite [a.extractLsb' 0 8, a.extractLsb' 8 8, a.extractLsb' 16 8, a.extractLsb' 24 8,
                         b.extractLsb' 0 8, b.extractLsb' 8 8, b.extractLsb' 16 8, b.extractLsb' 24 8]) s = .next t ∧
      exec (.decPfN 0) t = .next { t with resp := .sample { re := a, im := b } } ∧
      exec (.decPfS 0) t = .next { t with resp := .sample { re := b, im := a } }

/-! ### SampleDemux and ConsumerAdapter -/

/-- DMX.DECODE(n) within `COUNT` completes: for every channel and every sample below `n`, `OUT[ch][s]` becomes what the decoder
selected by `SEL = FMT ‖ SWAP` answers at stream offset `(s * NCH + ch) * BPS`; every other element is unchanged; exactly
`n * BPS * NCH` bytes are consumed; nothing else changes (R116, R170, R172, R183, R185, R186). `FMT`, `SWAP` and `NCH` are bits
17:16, 18 and 22:20 of `CFGR` read as numbers (R33), and `BPS` is 2, 1, 8 for the formats 1, 2, 3 (R8, R100). -/
def Obligations.DecodeFillsOutputAndConsumes : Prop :=
  ∀ (n : Word) (s : State) (fmt swap nch bps : Nat),
    fmt = s.cfgr.toNat / 2 ^ 16 % 4 → swap = s.cfgr.toNat / 2 ^ 18 % 2 → nch = s.cfgr.toNat / 2 ^ 20 % 8 →
    bps = (if fmt = 1 then 2 else if fmt = 2 then 1 else 8) → fmt ≠ 0 → n.toNat * (bps * nch) ≤ s.count →
    ∃ o, exec (.dmxDecode n) s =
        .next { s with out := o, rd := (s.rd + n.toNat * (bps * nch)) % s.cap, count := s.count - n.toNat * (bps * nch),
                       resp := .none } ∧
      (∀ ch smp, ch < nch → smp < n.toNat →
        ∃ d v, decode (.decoder (BitVec.ofNat 3 (fmt * 2 + swap)) ((smp * nch + ch) * bps)) = .ok d ∧
          exec d s = .next { s with resp := .sample v } ∧ outGet o ch smp = some v) ∧
      (∀ ch smp, ch < 8 → nch ≤ ch ∨ n.toNat ≤ smp → outGet o ch smp = outGet s.out ch smp)

/-- DMX.DECODE with `FMT` = 0 is the model-only fault UnconfiguredDecode; with more groups than are buffered, DecodeBeyondCount
(R120, R171, R247). The fields are bits of `CFGR` read as numbers, and `BPS` is 2, 1, 8 (R33, R100). -/
def Obligations.DecodeBeyondCountFaults : Prop :=
  ∀ (n : Word) (s : State) (fmt nch bps : Nat),
    fmt = s.cfgr.toNat / 2 ^ 16 % 4 → nch = s.cfgr.toNat / 2 ^ 20 % 8 → bps = (if fmt = 1 then 2 else if fmt = 2 then 1 else 8) →
    (fmt = 0 → exec (.dmxDecode n) s = .fault .unconfiguredDecode) ∧
    (fmt ≠ 0 → s.count < n.toNat * (bps * nch) → exec (.dmxDecode n) s = .fault .decodeBeyondCount)

/-- CA.PRODUCE with at least one group requested and buffered completes: it answers `min(requested, COUNT div G)`, fills that many
elements of each channel as DMX.DECODE does, leaves every other element, consumes exactly their bytes, and changes nothing else
(R195, R196, R197, R199). The fields are bits of `CFGR` read as numbers, `BPS` is 2, 1, 8, and `G = BPS * NCH` (R33, R100, R196). -/
def Obligations.ProduceDeliversWholeGroups : Prop :=
  ∀ (requested : Word) (s : State) (fmt swap nch bps g d : Nat),
    fmt = s.cfgr.toNat / 2 ^ 16 % 4 → swap = s.cfgr.toNat / 2 ^ 18 % 2 → nch = s.cfgr.toNat / 2 ^ 20 % 8 →
    bps = (if fmt = 1 then 2 else if fmt = 2 then 1 else 8) → g = bps * nch →
    s.configured = true → fmt ≠ 0 → 1 ≤ g → d = min requested.toNat (s.count / g) → 1 ≤ d →
    ∃ o, exec (.caProduce requested) s =
        .next { s with out := o, rd := (s.rd + d * g) % s.cap, count := s.count - d * g, resp := .word (BitVec.ofNat 32 d) } ∧
      (∀ ch smp, ch < nch → smp < d →
        ∃ i v, decode (.decoder (BitVec.ofNat 3 (fmt * 2 + swap)) ((smp * nch + ch) * bps)) = .ok i ∧
          exec i s = .next { s with resp := .sample v } ∧ outGet o ch smp = some v) ∧
      (∀ ch smp, ch < 8 → nch ≤ ch ∨ d ≤ smp → outGet o ch smp = outGet s.out ch smp)

/-- Nothing to deliver: with nothing requested or less than one group buffered, CA.PRODUCE answers 0 at once; no state changes and
no output element is written (R198). The group is `BPS * NCH` bytes, `BPS` 2, 1, 8 for the formats 1, 2, 3 (R100, R196). -/
def Obligations.ProduceWithNothingAnswersZero : Prop :=
  ∀ (requested : Word) (s : State) (fmt nch bps : Nat),
    fmt = s.cfgr.toNat / 2 ^ 16 % 4 → nch = s.cfgr.toNat / 2 ^ 20 % 8 → bps = (if fmt = 1 then 2 else if fmt = 2 then 1 else 8) →
    Inv s → s.configured = true → (requested = 0 ∨ s.count < bps * nch) →
      exec (.caProduce requested) s = .next { s with resp := .word 0 }

/-- With `CONFIGURED` = 0 CA.PRODUCE answers `Refused(NotConfigured)`, with no state change and no output written (R201). -/
def Obligations.ProduceUnconfiguredIsRefused : Prop :=
  ∀ (requested : Word) (s : State), s.configured = false →
    exec (.caProduce requested) s = .next { s with resp := .refused .notConfigured }

/-- CA.PRODUCE never over-reads: where only `k < requested` whole groups are buffered it answers exactly `k`, consumes exactly `k * G`
bytes and leaves fewer than `G` (R200). `G` is spelt out as in ProduceWithNothingAnswersZero. -/
def Obligations.ProduceNeverOverReads : Prop :=
  ∀ (requested : Word) (s : State) (fmt nch bps g k : Nat),
    fmt = s.cfgr.toNat / 2 ^ 16 % 4 → nch = s.cfgr.toNat / 2 ^ 20 % 8 → bps = (if fmt = 1 then 2 else if fmt = 2 then 1 else 8) →
    g = bps * nch → Inv s → s.configured = true → k = s.count / g → k < requested.toNat →
    ∃ t v, exec (.caProduce requested) s = .next t ∧ t.resp = .word v ∧ v.toNat = k ∧ t.count = s.count - k * g ∧ t.count < g

/-- CA.PRODUCE does not look at `SESSION`: in either lifecycle state it does the same (R202). -/
def Obligations.ProduceIgnoresSession : Prop :=
  ∀ (requested : Word) (s t : State) (v : Session), exec (.caProduce requested) s = .next t →
    exec (.caProduce requested) { s with session := v } = .next { t with session := v }

/-! ### CaptureSession -/

/-- CS.CFG completes in every state, by the first of the tests of R205 that holds: `Refused(NotIdle)` while Capturing, then
UnknownFormat, then ChannelCount (R208, R234), then a configuration stored with its reserved bits 0, `CONFIGURED` set and the
ring buffer emptied with `MEM` as it was (R206, R113). The fields are read from the argument as a number. `50`
and the argument's four bytes, high byte first, are its command. -/
def Obligations.ConfigureFollowsRule : Prop :=
  (∀ b1 b2 b3 b4 : Byte, decode (.command [0x50, b1, b2, b3, b4]) = .ok (.csCfg (b1 ++ b2 ++ b3 ++ b4))) ∧
  ∀ (arg : Word) (s : State) (fmt nch nwired : Nat),
    fmt = arg.toNat / 2 ^ 16 % 4 → nch = arg.toNat / 2 ^ 20 % 8 → nwired = arg.toNat / 2 ^ 24 % 8 →
    exec (.csCfg arg) s = .next (
      if s.session = .capturing then { s with resp := .refused .notIdle }
      else if fmt = 0 then { s with configured := false, resp := .configurationError .unknownFormat }
      else if nch < 1 ∨ 4 < nch ∨ nwired < nch then { s with configured := false, resp := .configurationError .channelCount }
      else { s with cfgr := arg &&& 0x0777FFFF, configured := true, wr := 0, rd := 0, count := 0, ovf := 0, resp := .ok })

/-- CS.START completes in every state, by the first of the tests of R209 that holds; on `env` = ok it enters Capturing and changes
nothing else, and on every other path nothing changes; byte 51 is its command (R209, R210, R211, R233). -/
def Obligations.StartFollowsRule : Prop :=
  decode (.command [0x51]) = .ok .csStart ∧ ∀ s : State,
    exec .csStart s = .next (
      if s.configured = false then { s with resp := .refused .notConfigured }
      else if s.session = .capturing then { s with resp := .refused .notIdle }
      else if s.startEnv = .devFail then { s with resp := .startupError .deviceOpen }
      else if s.startEnv = .bindFail then { s with resp := .startupError .socketBind }
      else { s with session := .capturing, resp := .ok })

/-- CS.STOP completes in every state: refused in Idle; a thread that does not join sets `FAULT` and leaves Capturing; else Idle, with
the ring buffer, the counter and the configuration as they were; byte 52 is its command (R212, R214, R237). -/
def Obligations.StopFollowsRule : Prop :=
  decode (.command [0x52]) = .ok .csStop ∧ ∀ s : State,
    exec .csStop s = .next (
      if s.session = .idle then { s with resp := .refused .notCapturing }
      else if s.stopEnv = .joinFail then { s with faulted := true, resp := .shutdownError }
      else { s with session := .idle, resp := .ok })

/-- CS.FRAME completes in every state and answers nothing: discarded with no effect in Idle; in Capturing, no effect where HP.PARSE
answers `NA`; where it answers `Accept(off, len)`, exactly the effect of RB.WRITE of `frame[off .. off+len-1]`, whether that fits or not
(R126, R215, R216, R217, R218). -/
def Obligations.FrameIsParseThenWrite : Prop :=
  ∀ (frame : List Byte) (s : State),
    (s.session = .idle → exec (.csFrame frame) s = .next { s with resp := .none }) ∧
    (s.session = .capturing → ¬ acceptable (s.cfgr.toNat % 65536) frame → exec (.csFrame frame) s = .next { s with resp := .none }) ∧
    (s.session = .capturing → acceptable (s.cfgr.toNat % 65536) frame →
      ∃ t, exec (.rbWrite ((frame.drop (hdrUdp frame + 8)).take (hdrUlen frame - 8))) s = .next t ∧
        exec (.csFrame frame) s = .next { t with resp := .none })

/-- Where a CS.FRAME stores: byte `k` of the accepted payload, frame byte `u + 8 + k`, goes to index `(WR + k) mod C`; every other index
reads as before; `WR` and `COUNT` move by the payload's length and nothing else changes (R152, R215). -/
def Obligations.FrameStoresPayloadBytes : Prop :=
  ∀ (frame : List Byte) (s : State) (len : Nat), s.session = .capturing → acceptable (s.cfgr.toNat % 65536) frame →
    len = hdrUlen frame - 8 → s.count ≤ s.cap → len ≤ s.cap - s.count →
    ∃ t, exec (.csFrame frame) s = .next t ∧
      t = { s with mem := t.mem, wr := (s.wr + len) % s.cap, count := s.count + len, resp := .none } ∧
      (∀ k, k < len → (memByte t ((s.wr + k) % s.cap)).toNat = hdrByte frame (hdrUdp frame + 8 + k)) ∧
      (∀ a, (∀ k, k < len → a ≠ (s.wr + k) % s.cap) → memByte t a = memByte s a)

/-- Port filtering: a frame addressed to another port, and every other frame that HP.PARSE does not accept, completes with no effect:
the occupancy does not increase (R146). -/
def Obligations.OtherPortsNeverEnterBuffer : Prop :=
  ∀ (frame : List Byte) (s : State),
    (hdrPort frame ≠ s.cfgr.toNat % 65536 → exec (.csFrame frame) s = .next { s with resp := .none }) ∧
    (exec (.hpParse frame) s = .next { s with resp := .na } → exec (.csFrame frame) s = .next { s with resp := .none })

/-- CS.RDREG completes in every state and changes nothing but the response: 0 is `CFGR`, 1 is `STATUS` bit by bit, 2 is `COUNT`, 3 is
`OVF`, 4 is `C`, 5 is 8, and every number above 5 reads 0 (R32, R34, R37, R219). A value of `2^32` or more has no stated 32-bit
response (log 11). -/
def Obligations.RegisterReadsFollowMap : Prop :=
  ∀ (n : Word) (s : State), ∃ v : Word, exec (.csRdreg n) s = .next { s with resp := .word v } ∧
    (n = 0 → v = s.cfgr) ∧
    (n = 1 → ∀ b, v.getLsbD b = ((b == 0 && s.session == .capturing) || (b == 1 && s.configured) || (b == 2 && s.faulted)
      || (b == 3 && s.count == 0) || (b == 4 && s.count == s.cap))) ∧
    (n = 2 → s.count < 2 ^ 32 → v.toNat = s.count) ∧
    (n = 3 → v = s.ovf) ∧
    (n = 4 → s.cap < 2 ^ 32 → v.toNat = s.cap) ∧
    (n = 5 → v = 8) ∧
    (5 < n.toNat → v = 0)

/-- CS.STATUS completes in every state with the value CS.RDREG(1) answers (R220). That the word of CS.RDREG(1) reads as CS.STATUS is
the model's choice between the two names (log 12): R220 says only that CS.STATUS has no code of its own. -/
def Obligations.StatusIsRegisterOne : Prop :=
  (∀ s : State, ∃ v : Word, exec .csStatus s = .next { s with resp := .word v } ∧ exec (.csRdreg 1) s = .next { s with resp := .word v }) ∧
  decode (.command [0x54, 0x00, 0x00, 0x00, 0x01]) = .ok .csStatus

/-! ### The whole machine -/

/-- After every operation but RB.WRITE, CS.FRAME and CS.RESET every index of `MEM` reads as before, and after every operation but these
and CS.CFG `WR` is as before: CS.CFG and CS.RESET set `WR` to 0, and CS.RESET makes `MEM` unspecified (R24, R31, R251). -/
def Obligations.OnlyWritesStoreBytes : Prop :=
  ∀ (i : Instr) (s t : State), exec i s = .next t → canWriteRing i = false → i ≠ .csReset →
    (∀ a, memByte t a = memByte s a) ∧ ((∀ arg, i ≠ .csCfg arg) → t.wr = s.wr)

/-- No read has a side effect: HP.PARSE, RB.AVAIL, RB.OVF, CS.RDREG, CS.STATUS and the decoders change nothing but the response, and
asked again they answer the same (R75). -/
def Obligations.ReadsHaveNoSideEffect : Prop :=
  ∀ (i : Instr) (s t : State), isRead i = true → exec i s = .next t → t = { s with resp := t.resp } ∧ exec i t = .next t

/-- `CFGR` changes only at a successful CS.CFG and at CS.RESET; no field of it changes in Capturing but by CS.RESET (R35). -/
def Obligations.ConfigurationChangesOnlyWhenIdle : Prop :=
  ∀ (i : Instr) (s t : State), exec i s = .next t → t.cfgr ≠ s.cfgr →
    i = .csReset ∨ (∃ arg, i = .csCfg arg ∧ t.resp = .ok ∧ s.session = .idle ∧ t.cfgr = arg &&& 0x0777FFFF)

/-- The lifecycle table: `SESSION` and `CONFIGURED` move as R222 lists and in no other way. -/
def Obligations.LifecycleFollowsTable : Prop :=
  ∀ (i : Instr) (s t : State), exec i s = .next t → (t.session, t.configured) = lifecycleNext i s

/-- `FAULT` is sticky: set only by a CS.STOP answered ShutdownError, cleared only by CS.RESET (R40, R238). -/
def Obligations.FaultFlagIsSticky : Prop :=
  ∀ (i : Instr) (s t : State), exec i s = .next t →
    t.faulted = (if i = .csReset then false
      else if i = .csStop ∧ t.resp = .shutdownError then true
      else s.faulted)

/-- What `OVF` is after an operation: one more, short of saturation, exactly where an RB.WRITE or a CS.FRAME offers a payload longer
than the free space, and then nothing else changes; 0 after a successful CS.CFG and after a CS.RESET; as before in every other case
(R29, R252). -/
def Obligations.OverflowCounterCountsRejections : Prop :=
  ∀ (i : Instr) (s t : State), exec i s = .next t →
    (∀ bytes, offered i s = some bytes → s.cap - s.count < bytes.length →
      t.ovf.toNat = min (s.ovf.toNat + 1) (2 ^ 32 - 1) ∧ t = { s with ovf := t.ovf, resp := t.resp }) ∧
    (∀ bytes, offered i s = some bytes → bytes.length ≤ s.cap - s.count → t.ovf = s.ovf) ∧
    (i = .csReset ∨ (∃ arg, i = .csCfg arg ∧ t.resp = .ok) → t.ovf = 0) ∧
    (offered i s = none → i ≠ .csReset → (∀ arg, i = .csCfg arg → t.resp ≠ .ok) → t.ovf = s.ovf)

/-- No step changes the capacity (R9). -/
def Obligations.CapacityIsFixed : Prop :=
  ∀ s t : State, step s = .next t → t.cap = s.cap

/-- `COUNT` moves in one direction for each role: a CS.FRAME never lowers it, a CA.PRODUCE or an RB.AVAIL never raises it (R79). -/
def Obligations.OccupancyMovesOneWayPerRole : Prop :=
  ∀ s t : State,
    (∀ frame, exec (.csFrame frame) s = .next t → s.count ≤ t.count) ∧
    (∀ requested, exec (.caProduce requested) s = .next t → t.count ≤ s.count) ∧
    (exec .rbAvail s = .next t → t.count = s.count)

/-- What the operations that each role may issue can change: the producer's, `MEM`, `WR`, `COUNT` upwards and `OVF`; the consumer's,
`OUT`, `RD` and `COUNT` downwards; the owner's, `SESSION`, `CFGR` and the flags, and of the ring buffer only all of it to empty. So
the owner alone changes `SESSION` and `CFGR`, the producer alone stores, and the consumer alone consumes (R31, R112, R251). RB.AVAIL
and RB.OVF, which by R163 anyone may issue, are among each role's (log 25). The response, and the epoch that CS.RESET moves (log 7),
are the model's own. -/
def Obligations.EachRoleChangesItsOwnPart : Prop :=
  ∀ (i : Instr) (s t : State), exec i s = .next t →
    (mayIssue .producer i = true → s.count ≤ t.count ∧
      t = { s with mem := t.mem, wr := t.wr, count := t.count, ovf := t.ovf, resp := t.resp }) ∧
    (mayIssue .consumer i = true → t.count ≤ s.count ∧ t = { s with out := t.out, rd := t.rd, count := t.count, resp := t.resp }) ∧
    (mayIssue .owner i = true →
      t = { s with session := t.session, configured := t.configured, faulted := t.faulted, cfgr := t.cfgr, resp := t.resp } ∨
      t = { s with session := t.session, configured := t.configured, faulted := t.faulted, cfgr := t.cfgr, resp := t.resp,
                   mem := t.mem, memEpoch := t.memEpoch, wr := 0, rd := 0, count := 0, ovf := 0 })

/-- After the end of a run as R282 offers it, reached over any steps from a state that meets the invariant: the owner did issue a
CS.STOP answered `Ok` and the consumer a CA.PRODUCE answered 0; no CS.FRAME stores any more, and while the block is configured
every CA.PRODUCE answers 0 and changes nothing. The events of a run are the model's observation (log 26). -/
def Obligations.EndedRunIsQuiet : Prop :=
  ∀ (k : Nat) (s t : State) (events : List Event), Inv s → queueWf s → runEvents k s = some (t, events) → runOver events t →
    (∃ e, e ∈ events ∧ e.agent = .owner ∧ e.op = .csStop ∧ e.answer = .ok) ∧
    (∃ e n, e ∈ events ∧ e.agent = .consumer ∧ e.op = .caProduce n ∧ e.answer = .word 0) ∧
    (∀ frame, exec (.csFrame frame) t = .next { t with resp := .none }) ∧
    (t.configured = true → ∀ requested, exec (.caProduce requested) t = .next { t with resp := .word 0 })

/-- The stop guarantee over runs: from an Idle state, as long as nothing queued is a CS.START (or the test bench's RB.WRITE), every run
stays Idle and the readable bytes only go: what is left is always an end part of what was there (R213, R216). -/
def Obligations.NoWritesAfterStop : Prop :=
  ∀ (k : Nat) (s t : State), s.session = .idle → (∀ r, r ∈ s.queue → noStartNoWrite r) →
    Host.Core.run Sys2Proof.core k s = .next t → t.session = .idle ∧ stream t <:+ stream s

/-- A decode and a frame whose payload fits commute: in either order they reach the very same state, output and buffer alike, so a
producer's write between the consumer's reading of `COUNT` and its decode changes nothing (R79, R81). The group is spelt out as
in DecodeFillsOutputAndConsumes. -/
def Obligations.DecodeAndFrameCommute : Prop :=
  ∀ (n : Word) (frame : List Byte) (s : State) (fmt nch bps : Nat),
    fmt = s.cfgr.toNat / 2 ^ 16 % 4 → nch = s.cfgr.toNat / 2 ^ 20 % 8 → bps = (if fmt = 1 then 2 else if fmt = 2 then 1 else 8) →
    Inv s → fmt ≠ 0 → s.session = .capturing → acceptable (s.cfgr.toNat % 65536) frame →
    hdrUlen frame - 8 ≤ s.cap - s.count → n.toNat * (bps * nch) ≤ s.count →
    ∃ a b t, exec (.csFrame frame) s = .next a ∧ exec (.dmxDecode n) a = .next t ∧
      exec (.dmxDecode n) s = .next b ∧ exec (.csFrame frame) b = .next t

/-- Which agent may issue which operation: the producer CS.FRAME, the consumer CA.PRODUCE, the owner the configuring, lifecycle and
register operations and CS.RESET (R21, R112), anyone RB.AVAIL and RB.OVF (R163, where R112 and R251 name fewer roles: the
model's choice, log 25), and a test bench every operation (R21). -/
def Obligations.RolesMayIssueTheirOperations : Prop :=
  ∀ (a : Agent) (i : Instr), mayIssue a i = true ↔
    a = .testBench ∨ i = .rbAvail ∨ i = .rbOvf ∨ (a = .producer ∧ ∃ frame, i = .csFrame frame) ∨
    (a = .consumer ∧ ∃ requested, i = .caProduce requested) ∨
    (a = .owner ∧ ((∃ arg, i = .csCfg arg) ∨ i = .csStart ∨ i = .csStop ∨ (∃ n, i = .csRdreg n) ∨ i = .csStatus ∨ i = .csReset))
end

