-- ==== Sys2Proof/Laws/Cells.lean ====
section
/-! SUPPORT. Cells: a read after a write, and the canonical form every write keeps. -/

namespace Sys2Proof.Machine

variable {α : Type}

@[simp] theorem cellGet_nil (i : Nat) : cellGet ([] : Cells α) i = none := rfl

theorem cellGet_cellSet_same (m : Cells α) (i : Nat) (x : α) : cellGet (cellSet m i x) i = some x := by
  induction m with
  | nil => simp [cellSet, cellGet]
  | cons e rest ih =>
    obtain ⟨k, v⟩ := e
    unfold cellSet
    split
    · simp [cellGet]
    · split
      · simp [cellGet]
      · rename_i h1 h2
        simp [cellGet, ih, show ¬ k = i by omega]

theorem cellGet_cellSet_other (m : Cells α) {i j : Nat} (h : i ≠ j) (x : α) :
    cellGet (cellSet m i x) j = cellGet m j := by
  induction m with
  | nil => simp [cellSet, cellGet, h]
  | cons e rest ih =>
    obtain ⟨k, v⟩ := e
    unfold cellSet
    split
    · simp [cellGet, h]
    · split
      · rename_i h1 h2
        subst h2
        simp [cellGet, h]
      · simp [cellGet, ih]

/-- Reading a cell after a write: the written value at its address, the old value at every other. -/
theorem cellGet_cellSet (m : Cells α) (i j : Nat) (x : α) :
    cellGet (cellSet m i x) j = if i = j then some x else cellGet m j := by
  split
  · next h => rw [← h, cellGet_cellSet_same]
  · next h => exact cellGet_cellSet_other m h x

theorem cellSet_keys (m : Cells α) (i : Nat) (x : α) {e : Nat × α} (h : e ∈ cellSet m i x) :
    e.1 = i ∨ e ∈ m := by
  induction m with
  | nil => simp only [cellSet, List.mem_singleton] at h; exact .inl (by rw [h])
  | cons a rest ih =>
    obtain ⟨k, v⟩ := a
    unfold cellSet at h
    split at h
    · rcases List.mem_cons.1 h with rfl | h
      · exact .inl rfl
      · exact .inr h
    · split at h
      · rcases List.mem_cons.1 h with rfl | h
        · exact .inl rfl
        · exact .inr (List.mem_cons_of_mem _ h)
      · rcases List.mem_cons.1 h with rfl | h
        · exact .inr (List.mem_cons_self ..)
        · exact (ih h).imp id (List.mem_cons_of_mem _)

theorem cellSet_wf {m : Cells α} (h : cellsWf m) (i : Nat) (x : α) : cellsWf (cellSet m i x) := by
  induction m with
  | nil => exact List.pairwise_singleton ..
  | cons a rest ih =>
    obtain ⟨k, v⟩ := a
    obtain ⟨hk, hr⟩ := List.pairwise_cons.1 h
    unfold cellSet
    split
    · next h1 =>
      refine List.pairwise_cons.2 ⟨fun e he => ?_, h⟩
      rcases List.mem_cons.1 he with rfl | he
      · exact h1
      · exact Nat.lt_trans h1 (hk e he)
    · split
      · next h1 h2 => subst h2; exact List.pairwise_cons.2 ⟨hk, hr⟩
      · next h1 h2 =>
        refine List.pairwise_cons.2 ⟨fun e he => ?_, ih hr⟩
        rcases cellSet_keys rest i x he with h3 | h3
        · show k < e.1; omega
        · exact hk e h3

/-- Distinct elements of the output arrays have distinct addresses. -/
theorem outKey_inj {ch ch' smp smp' : Nat} (h : ch < 8) (h' : ch' < 8)
    (e : outKey ch smp = outKey ch' smp') : ch = ch' ∧ smp = smp' := by
  unfold outKey at e; omega

/-- Reading an element of `OUT` after a write of one. -/
theorem outGet_outSet (o : OutSpace) {ch ch' smp smp' : Nat} (h : ch < 8) (h' : ch' < 8) (v : Sample) :
    outGet (outSet o ch smp v) ch' smp' = if ch = ch' ∧ smp = smp' then some v else outGet o ch' smp' := by
  unfold outGet outSet
  rw [cellGet_cellSet]
  by_cases hc : ch = ch' ∧ smp = smp'
  · simp [hc]
  · have : outKey ch smp ≠ outKey ch' smp' := fun e => hc (outKey_inj h h' e)
    simp [this, hc]

theorem outSet_wf {o : OutSpace} (h : cellsWf o) (ch smp : Nat) (v : Sample) : cellsWf (outSet o ch smp v) :=
  cellSet_wf h _ _

end Sys2Proof.Machine
end

