-- ==== Sys2Proof/Laws/Decode.lean ====
section
/-! SUPPORT. What an `OP` byte can name, and the parts of a command. -/

namespace Sys2Proof

/-- All that an `OP` byte can name (R112). -/
theorem formatOf_cases (op : Byte) :
    (op = 0x10#8 ∧ formatOf op = some (.s .hpParse)) ∨
    (op = 0x20#8 ∧ formatOf op = some (.s .rbWrite)) ∨
    (op = 0x21#8 ∧ formatOf op = some (.z .rbAvail)) ∨
    (op = 0x22#8 ∧ formatOf op = some (.w .rbConsume)) ∨
    (op = 0x23#8 ∧ formatOf op = some (.z .rbOvf)) ∨
    (op = 0x30#8 ∧ formatOf op = some (.w .dmxDecode)) ∨
    (op = 0x40#8 ∧ formatOf op = some (.w .caProduce)) ∨
    (op = 0x50#8 ∧ formatOf op = some (.w .csCfg)) ∨
    (op = 0x51#8 ∧ formatOf op = some (.z .csStart)) ∨
    (op = 0x52#8 ∧ formatOf op = some (.z .csStop)) ∨
    (op = 0x53#8 ∧ formatOf op = some (.s .csFrame)) ∨
    (op = 0x54#8 ∧ formatOf op = some (.w rdregOrStatus)) ∨
    (op = 0x5F#8 ∧ formatOf op = some (.z .csReset)) ∨
    formatOf op = none := by
  by_cases h0 : op = 0x10#8
  · subst h0; exact .inl ⟨rfl, rfl⟩
  by_cases h1 : op = 0x20#8
  · subst h1; exact .inr (.inl ⟨rfl, rfl⟩)
  by_cases h2 : op = 0x21#8
  · subst h2; exact .inr (.inr (.inl ⟨rfl, rfl⟩))
  by_cases h3 : op = 0x22#8
  · subst h3; exact .inr (.inr (.inr (.inl ⟨rfl, rfl⟩)))
  by_cases h4 : op = 0x23#8
  · subst h4; exact .inr (.inr (.inr (.inr (.inl ⟨rfl, rfl⟩))))
  by_cases h5 : op = 0x30#8
  · subst h5; exact .inr (.inr (.inr (.inr (.inr (.inl ⟨rfl, rfl⟩)))))
  by_cases h6 : op = 0x40#8
  · subst h6; exact .inr (.inr (.inr (.inr (.inr (.inr (.inl ⟨rfl, rfl⟩))))))
  by_cases h7 : op = 0x50#8
  · subst h7; exact .inr (.inr (.inr (.inr (.inr (.inr (.inr (.inl ⟨rfl, rfl⟩)))))))
  by_cases h8 : op = 0x51#8
  · subst h8; exact .inr (.inr (.inr (.inr (.inr (.inr (.inr (.inr (.inl ⟨rfl, rfl⟩))))))))
  by_cases h9 : op = 0x52#8
  · subst h9; exact .inr (.inr (.inr (.inr (.inr (.inr (.inr (.inr (.inr (.inl ⟨rfl, rfl⟩)))))))))
  by_cases h10 : op = 0x53#8
  · subst h10; exact .inr (.inr (.inr (.inr (.inr (.inr (.inr (.inr (.inr (.inr (.inl ⟨rfl, rfl⟩))))))))))
  by_cases h11 : op = 0x54#8
  · subst h11; exact .inr (.inr (.inr (.inr (.inr (.inr (.inr (.inr (.inr (.inr (.inr (.inl ⟨rfl, rfl⟩)))))))))))
  by_cases h12 : op = 0x5F#8
  · subst h12; exact .inr (.inr (.inr (.inr (.inr (.inr (.inr (.inr (.inr (.inr (.inr (.inr (.inl ⟨rfl, rfl⟩))))))))))))
  unfold formatOf
  rw [if_neg h0, if_neg h1, if_neg h2, if_neg h3, if_neg h4, if_neg h5, if_neg h6, if_neg h7, if_neg h8, if_neg h9, if_neg h10, if_neg h11, if_neg h12]
  simp only [or_true]

/-- `ARG` put together from its four bytes is `ARG` (R110). -/
theorem argOfBytes_extract (w : Word) :
    argOfBytes (w.extractLsb' 24 8) (w.extractLsb' 16 8) (w.extractLsb' 8 8) (w.extractLsb' 0 8) = w := by
  unfold argOfBytes
  ext i hi
  simp only [BitVec.getElem_append]
  split
  · simp [BitVec.getElem_extractLsb', BitVec.getLsbD_eq_getElem hi]
  · split
    · simp only [BitVec.getElem_extractLsb']; rw [← BitVec.getLsbD_eq_getElem]; congr 1; omega
    · split
      · simp only [BitVec.getElem_extractLsb']; rw [← BitVec.getLsbD_eq_getElem]; congr 1; omega
      · simp only [BitVec.getElem_extractLsb']; rw [← BitVec.getLsbD_eq_getElem]; congr 1; omega

/-- Each byte of an `ARG` put together is the byte given (R110). -/
theorem extract_argOfBytes (b1 b2 b3 b4 : Byte) :
    (argOfBytes b1 b2 b3 b4).extractLsb' 24 8 = b1 ∧ (argOfBytes b1 b2 b3 b4).extractLsb' 16 8 = b2 ∧
      (argOfBytes b1 b2 b3 b4).extractLsb' 8 8 = b3 ∧ (argOfBytes b1 b2 b3 b4).extractLsb' 0 8 = b4 := by
  simp only [argOfBytes]
  refine ⟨?_, ?_, ?_, ?_⟩ <;> ext i hi <;> (rw [BitVec.getElem_extractLsb']) <;> simp only [BitVec.getLsbD_append]
  · rw [if_neg (by omega), if_neg (by omega), if_neg (by omega), ← BitVec.getLsbD_eq_getElem]; congr 1; omega
  · rw [if_neg (by omega), if_neg (by omega), if_pos (by omega), ← BitVec.getLsbD_eq_getElem]; congr 1; omega
  · rw [if_neg (by omega), if_pos (by omega), ← BitVec.getLsbD_eq_getElem]; congr 1; omega
  · rw [if_pos (by omega), ← BitVec.getLsbD_eq_getElem]; congr 1; omega

/-- `LEN` put together from its two bytes is `LEN` (R110). -/
theorem lenOfBytes_ofNat {n : Nat} (h : n ≤ 65535) : lenOfBytes (BitVec.ofNat 8 (n / 256)) (BitVec.ofNat 8 n) = n := by
  simp [lenOfBytes]; omega

end Sys2Proof
end

