-- ==== Sys2Proof/Laws/State.lean ====
section
/-! SUPPORT. One lemma per field per update of the state, so that no proof unfolds an update. -/

namespace Sys2Proof.Machine

section
variable (s : State) (bytes : List Byte)

@[simp] theorem State.append_cap : (s.append bytes).cap = s.cap := rfl
@[simp] theorem State.append_cfgr : (s.append bytes).cfgr = s.cfgr := rfl
@[simp] theorem State.append_configured : (s.append bytes).configured = s.configured := rfl
@[simp] theorem State.append_faulted : (s.append bytes).faulted = s.faulted := rfl
@[simp] theorem State.append_session : (s.append bytes).session = s.session := rfl
@[simp] theorem State.append_mem : (s.append bytes).mem = ringStore s.cap s.mem s.wr bytes := rfl
@[simp] theorem State.append_wr : (s.append bytes).wr = (s.wr + bytes.length) % s.cap := rfl
@[simp] theorem State.append_rd : (s.append bytes).rd = s.rd := rfl
@[simp] theorem State.append_count : (s.append bytes).count = s.count + bytes.length := rfl
@[simp] theorem State.append_ovf : (s.append bytes).ovf = s.ovf := rfl
@[simp] theorem State.append_memEpoch : (s.append bytes).memEpoch = s.memEpoch := rfl
@[simp] theorem State.append_out : (s.append bytes).out = s.out := rfl
@[simp] theorem State.append_resp : (s.append bytes).resp = s.resp := rfl
@[simp] theorem State.append_issuer : (s.append bytes).issuer = s.issuer := rfl
@[simp] theorem State.append_startEnv : (s.append bytes).startEnv = s.startEnv := rfl
@[simp] theorem State.append_stopEnv : (s.append bytes).stopEnv = s.stopEnv := rfl
@[simp] theorem State.append_queue : (s.append bytes).queue = s.queue := rfl

end

section
variable (s : State)

@[simp] theorem State.bumpOvf_cap : s.bumpOvf.cap = s.cap := rfl
@[simp] theorem State.bumpOvf_cfgr : s.bumpOvf.cfgr = s.cfgr := rfl
@[simp] theorem State.bumpOvf_configured : s.bumpOvf.configured = s.configured := rfl
@[simp] theorem State.bumpOvf_faulted : s.bumpOvf.faulted = s.faulted := rfl
@[simp] theorem State.bumpOvf_session : s.bumpOvf.session = s.session := rfl
@[simp] theorem State.bumpOvf_mem : s.bumpOvf.mem = s.mem := rfl
@[simp] theorem State.bumpOvf_wr : s.bumpOvf.wr = s.wr := rfl
@[simp] theorem State.bumpOvf_rd : s.bumpOvf.rd = s.rd := rfl
@[simp] theorem State.bumpOvf_count : s.bumpOvf.count = s.count := rfl
@[simp] theorem State.bumpOvf_ovf : s.bumpOvf.ovf = BitVec.ofNat 32 (min (s.ovf.toNat + 1) Config.ovfMax) := rfl
@[simp] theorem State.bumpOvf_memEpoch : s.bumpOvf.memEpoch = s.memEpoch := rfl
@[simp] theorem State.bumpOvf_out : s.bumpOvf.out = s.out := rfl
@[simp] theorem State.bumpOvf_resp : s.bumpOvf.resp = s.resp := rfl
@[simp] theorem State.bumpOvf_issuer : s.bumpOvf.issuer = s.issuer := rfl
@[simp] theorem State.bumpOvf_startEnv : s.bumpOvf.startEnv = s.startEnv := rfl
@[simp] theorem State.bumpOvf_stopEnv : s.bumpOvf.stopEnv = s.stopEnv := rfl
@[simp] theorem State.bumpOvf_queue : s.bumpOvf.queue = s.queue := rfl

end

section
variable (s : State) (len : Nat)

@[simp] theorem State.advance_cap : (s.advance len).cap = s.cap := rfl
@[simp] theorem State.advance_cfgr : (s.advance len).cfgr = s.cfgr := rfl
@[simp] theorem State.advance_configured : (s.advance len).configured = s.configured := rfl
@[simp] theorem State.advance_faulted : (s.advance len).faulted = s.faulted := rfl
@[simp] theorem State.advance_session : (s.advance len).session = s.session := rfl
@[simp] theorem State.advance_mem : (s.advance len).mem = s.mem := rfl
@[simp] theorem State.advance_wr : (s.advance len).wr = s.wr := rfl
@[simp] theorem State.advance_rd : (s.advance len).rd = (s.rd + len) % s.cap := rfl
@[simp] theorem State.advance_count : (s.advance len).count = s.count - len := rfl
@[simp] theorem State.advance_ovf : (s.advance len).ovf = s.ovf := rfl
@[simp] theorem State.advance_memEpoch : (s.advance len).memEpoch = s.memEpoch := rfl
@[simp] theorem State.advance_out : (s.advance len).out = s.out := rfl
@[simp] theorem State.advance_resp : (s.advance len).resp = s.resp := rfl
@[simp] theorem State.advance_issuer : (s.advance len).issuer = s.issuer := rfl
@[simp] theorem State.advance_startEnv : (s.advance len).startEnv = s.startEnv := rfl
@[simp] theorem State.advance_stopEnv : (s.advance len).stopEnv = s.stopEnv := rfl
@[simp] theorem State.advance_queue : (s.advance len).queue = s.queue := rfl

end

section
variable (s : State) (o : OutSpace)

@[simp] theorem State.withOut_cap : (s.withOut o).cap = s.cap := rfl
@[simp] theorem State.withOut_cfgr : (s.withOut o).cfgr = s.cfgr := rfl
@[simp] theorem State.withOut_configured : (s.withOut o).configured = s.configured := rfl
@[simp] theorem State.withOut_faulted : (s.withOut o).faulted = s.faulted := rfl
@[simp] theorem State.withOut_session : (s.withOut o).session = s.session := rfl
@[simp] theorem State.withOut_mem : (s.withOut o).mem = s.mem := rfl
@[simp] theorem State.withOut_wr : (s.withOut o).wr = s.wr := rfl
@[simp] theorem State.withOut_rd : (s.withOut o).rd = s.rd := rfl
@[simp] theorem State.withOut_count : (s.withOut o).count = s.count := rfl
@[simp] theorem State.withOut_ovf : (s.withOut o).ovf = s.ovf := rfl
@[simp] theorem State.withOut_memEpoch : (s.withOut o).memEpoch = s.memEpoch := rfl
@[simp] theorem State.withOut_out : (s.withOut o).out = o := rfl
@[simp] theorem State.withOut_resp : (s.withOut o).resp = s.resp := rfl
@[simp] theorem State.withOut_issuer : (s.withOut o).issuer = s.issuer := rfl
@[simp] theorem State.withOut_startEnv : (s.withOut o).startEnv = s.startEnv := rfl
@[simp] theorem State.withOut_stopEnv : (s.withOut o).stopEnv = s.stopEnv := rfl
@[simp] theorem State.withOut_queue : (s.withOut o).queue = s.queue := rfl

end

section
variable (s : State) (v : Session)

@[simp] theorem State.withSession_cap : (s.withSession v).cap = s.cap := rfl
@[simp] theorem State.withSession_cfgr : (s.withSession v).cfgr = s.cfgr := rfl
@[simp] theorem State.withSession_configured : (s.withSession v).configured = s.configured := rfl
@[simp] theorem State.withSession_faulted : (s.withSession v).faulted = s.faulted := rfl
@[simp] theorem State.withSession_session : (s.withSession v).session = v := rfl
@[simp] theorem State.withSession_mem : (s.withSession v).mem = s.mem := rfl
@[simp] theorem State.withSession_wr : (s.withSession v).wr = s.wr := rfl
@[simp] theorem State.withSession_rd : (s.withSession v).rd = s.rd := rfl
@[simp] theorem State.withSession_count : (s.withSession v).count = s.count := rfl
@[simp] theorem State.withSession_ovf : (s.withSession v).ovf = s.ovf := rfl
@[simp] theorem State.withSession_memEpoch : (s.withSession v).memEpoch = s.memEpoch := rfl
@[simp] theorem State.withSession_out : (s.withSession v).out = s.out := rfl
@[simp] theorem State.withSession_resp : (s.withSession v).resp = s.resp := rfl
@[simp] theorem State.withSession_issuer : (s.withSession v).issuer = s.issuer := rfl
@[simp] theorem State.withSession_startEnv : (s.withSession v).startEnv = s.startEnv := rfl
@[simp] theorem State.withSession_stopEnv : (s.withSession v).stopEnv = s.stopEnv := rfl
@[simp] theorem State.withSession_queue : (s.withSession v).queue = s.queue := rfl

end

section
variable (s : State)

@[simp] theorem State.setFault_cap : s.setFault.cap = s.cap := rfl
@[simp] theorem State.setFault_cfgr : s.setFault.cfgr = s.cfgr := rfl
@[simp] theorem State.setFault_configured : s.setFault.configured = s.configured := rfl
@[simp] theorem State.setFault_faulted : s.setFault.faulted = true := rfl
@[simp] theorem State.setFault_session : s.setFault.session = s.session := rfl
@[simp] theorem State.setFault_mem : s.setFault.mem = s.mem := rfl
@[simp] theorem State.setFault_wr : s.setFault.wr = s.wr := rfl
@[simp] theorem State.setFault_rd : s.setFault.rd = s.rd := rfl
@[simp] theorem State.setFault_count : s.setFault.count = s.count := rfl
@[simp] theorem State.setFault_ovf : s.setFault.ovf = s.ovf := rfl
@[simp] theorem State.setFault_memEpoch : s.setFault.memEpoch = s.memEpoch := rfl
@[simp] theorem State.setFault_out : s.setFault.out = s.out := rfl
@[simp] theorem State.setFault_resp : s.setFault.resp = s.resp := rfl
@[simp] theorem State.setFault_issuer : s.setFault.issuer = s.issuer := rfl
@[simp] theorem State.setFault_startEnv : s.setFault.startEnv = s.startEnv := rfl
@[simp] theorem State.setFault_stopEnv : s.setFault.stopEnv = s.stopEnv := rfl
@[simp] theorem State.setFault_queue : s.setFault.queue = s.queue := rfl

end

section
variable (s : State)

@[simp] theorem State.clearConfigured_cap : s.clearConfigured.cap = s.cap := rfl
@[simp] theorem State.clearConfigured_cfgr : s.clearConfigured.cfgr = s.cfgr := rfl
@[simp] theorem State.clearConfigured_configured : s.clearConfigured.configured = false := rfl
@[simp] theorem State.clearConfigured_faulted : s.clearConfigured.faulted = s.faulted := rfl
@[simp] theorem State.clearConfigured_session : s.clearConfigured.session = s.session := rfl
@[simp] theorem State.clearConfigured_mem : s.clearConfigured.mem = s.mem := rfl
@[simp] theorem State.clearConfigured_wr : s.clearConfigured.wr = s.wr := rfl
@[simp] theorem State.clearConfigured_rd : s.clearConfigured.rd = s.rd := rfl
@[simp] theorem State.clearConfigured_count : s.clearConfigured.count = s.count := rfl
@[simp] theorem State.clearConfigured_ovf : s.clearConfigured.ovf = s.ovf := rfl
@[simp] theorem State.clearConfigured_memEpoch : s.clearConfigured.memEpoch = s.memEpoch := rfl
@[simp] theorem State.clearConfigured_out : s.clearConfigured.out = s.out := rfl
@[simp] theorem State.clearConfigured_resp : s.clearConfigured.resp = s.resp := rfl
@[simp] theorem State.clearConfigured_issuer : s.clearConfigured.issuer = s.issuer := rfl
@[simp] theorem State.clearConfigured_startEnv : s.clearConfigured.startEnv = s.startEnv := rfl
@[simp] theorem State.clearConfigured_stopEnv : s.clearConfigured.stopEnv = s.stopEnv := rfl
@[simp] theorem State.clearConfigured_queue : s.clearConfigured.queue = s.queue := rfl

end

section
variable (s : State) (arg : Word)

@[simp] theorem State.configure_cap : (s.configure arg).cap = s.cap := rfl
@[simp] theorem State.configure_cfgr : (s.configure arg).cfgr = cfgrOfArg arg := rfl
@[simp] theorem State.configure_configured : (s.configure arg).configured = true := rfl
@[simp] theorem State.configure_faulted : (s.configure arg).faulted = s.faulted := rfl
@[simp] theorem State.configure_session : (s.configure arg).session = s.session := rfl
@[simp] theorem State.configure_mem : (s.configure arg).mem = s.mem := rfl
@[simp] theorem State.configure_wr : (s.configure arg).wr = 0 := rfl
@[simp] theorem State.configure_rd : (s.configure arg).rd = 0 := rfl
@[simp] theorem State.configure_count : (s.configure arg).count = 0 := rfl
@[simp] theorem State.configure_ovf : (s.configure arg).ovf = 0#32 := rfl
@[simp] theorem State.configure_memEpoch : (s.configure arg).memEpoch = s.memEpoch := rfl
@[simp] theorem State.configure_out : (s.configure arg).out = s.out := rfl
@[simp] theorem State.configure_resp : (s.configure arg).resp = s.resp := rfl
@[simp] theorem State.configure_issuer : (s.configure arg).issuer = s.issuer := rfl
@[simp] theorem State.configure_startEnv : (s.configure arg).startEnv = s.startEnv := rfl
@[simp] theorem State.configure_stopEnv : (s.configure arg).stopEnv = s.stopEnv := rfl
@[simp] theorem State.configure_queue : (s.configure arg).queue = s.queue := rfl

end

section
variable (s : State)

@[simp] theorem State.resetBlock_cap : s.resetBlock.cap = s.cap := rfl
@[simp] theorem State.resetBlock_cfgr : s.resetBlock.cfgr = 0#32 := rfl
@[simp] theorem State.resetBlock_configured : s.resetBlock.configured = false := rfl
@[simp] theorem State.resetBlock_faulted : s.resetBlock.faulted = false := rfl
@[simp] theorem State.resetBlock_session : s.resetBlock.session = .idle := rfl
@[simp] theorem State.resetBlock_mem : s.resetBlock.mem = [] := rfl
@[simp] theorem State.resetBlock_wr : s.resetBlock.wr = 0 := rfl
@[simp] theorem State.resetBlock_rd : s.resetBlock.rd = 0 := rfl
@[simp] theorem State.resetBlock_count : s.resetBlock.count = 0 := rfl
@[simp] theorem State.resetBlock_ovf : s.resetBlock.ovf = 0#32 := rfl
@[simp] theorem State.resetBlock_memEpoch : s.resetBlock.memEpoch = s.memEpoch + 1 := rfl
@[simp] theorem State.resetBlock_out : s.resetBlock.out = s.out := rfl
@[simp] theorem State.resetBlock_resp : s.resetBlock.resp = s.resp := rfl
@[simp] theorem State.resetBlock_issuer : s.resetBlock.issuer = s.issuer := rfl
@[simp] theorem State.resetBlock_startEnv : s.resetBlock.startEnv = s.startEnv := rfl
@[simp] theorem State.resetBlock_stopEnv : s.resetBlock.stopEnv = s.stopEnv := rfl
@[simp] theorem State.resetBlock_queue : s.resetBlock.queue = s.queue := rfl

end

section
variable (s : State) (r : Response)

@[simp] theorem State.answer_cap : (s.answer r).cap = s.cap := rfl
@[simp] theorem State.answer_cfgr : (s.answer r).cfgr = s.cfgr := rfl
@[simp] theorem State.answer_configured : (s.answer r).configured = s.configured := rfl
@[simp] theorem State.answer_faulted : (s.answer r).faulted = s.faulted := rfl
@[simp] theorem State.answer_session : (s.answer r).session = s.session := rfl
@[simp] theorem State.answer_mem : (s.answer r).mem = s.mem := rfl
@[simp] theorem State.answer_wr : (s.answer r).wr = s.wr := rfl
@[simp] theorem State.answer_rd : (s.answer r).rd = s.rd := rfl
@[simp] theorem State.answer_count : (s.answer r).count = s.count := rfl
@[simp] theorem State.answer_ovf : (s.answer r).ovf = s.ovf := rfl
@[simp] theorem State.answer_memEpoch : (s.answer r).memEpoch = s.memEpoch := rfl
@[simp] theorem State.answer_out : (s.answer r).out = s.out := rfl
@[simp] theorem State.answer_resp : (s.answer r).resp = r := rfl
@[simp] theorem State.answer_issuer : (s.answer r).issuer = s.issuer := rfl
@[simp] theorem State.answer_startEnv : (s.answer r).startEnv = s.startEnv := rfl
@[simp] theorem State.answer_stopEnv : (s.answer r).stopEnv = s.stopEnv := rfl
@[simp] theorem State.answer_queue : (s.answer r).queue = s.queue := rfl

end

section
variable (s : State) (r : Request) (rest : List Request)

@[simp] theorem State.take_cap : (s.take r rest).cap = s.cap := rfl
@[simp] theorem State.take_cfgr : (s.take r rest).cfgr = s.cfgr := rfl
@[simp] theorem State.take_configured : (s.take r rest).configured = s.configured := rfl
@[simp] theorem State.take_faulted : (s.take r rest).faulted = s.faulted := rfl
@[simp] theorem State.take_session : (s.take r rest).session = s.session := rfl
@[simp] theorem State.take_mem : (s.take r rest).mem = s.mem := rfl
@[simp] theorem State.take_wr : (s.take r rest).wr = s.wr := rfl
@[simp] theorem State.take_rd : (s.take r rest).rd = s.rd := rfl
@[simp] theorem State.take_count : (s.take r rest).count = s.count := rfl
@[simp] theorem State.take_ovf : (s.take r rest).ovf = s.ovf := rfl
@[simp] theorem State.take_memEpoch : (s.take r rest).memEpoch = s.memEpoch := rfl
@[simp] theorem State.take_out : (s.take r rest).out = r.arrays.getD s.out := rfl
@[simp] theorem State.take_resp : (s.take r rest).resp = s.resp := rfl
@[simp] theorem State.take_issuer : (s.take r rest).issuer = r.agent := rfl
@[simp] theorem State.take_startEnv : (s.take r rest).startEnv = r.startEnv := rfl
@[simp] theorem State.take_stopEnv : (s.take r rest).stopEnv = r.stopEnv := rfl
@[simp] theorem State.take_queue : (s.take r rest).queue = rest := rfl

end

section
variable (s : State) (r : Request)

@[simp] theorem State.issueFirst_cap : (s.issueFirst r).cap = s.cap := rfl
@[simp] theorem State.issueFirst_cfgr : (s.issueFirst r).cfgr = s.cfgr := rfl
@[simp] theorem State.issueFirst_configured : (s.issueFirst r).configured = s.configured := rfl
@[simp] theorem State.issueFirst_faulted : (s.issueFirst r).faulted = s.faulted := rfl
@[simp] theorem State.issueFirst_session : (s.issueFirst r).session = s.session := rfl
@[simp] theorem State.issueFirst_mem : (s.issueFirst r).mem = s.mem := rfl
@[simp] theorem State.issueFirst_wr : (s.issueFirst r).wr = s.wr := rfl
@[simp] theorem State.issueFirst_rd : (s.issueFirst r).rd = s.rd := rfl
@[simp] theorem State.issueFirst_count : (s.issueFirst r).count = s.count := rfl
@[simp] theorem State.issueFirst_ovf : (s.issueFirst r).ovf = s.ovf := rfl
@[simp] theorem State.issueFirst_memEpoch : (s.issueFirst r).memEpoch = s.memEpoch := rfl
@[simp] theorem State.issueFirst_out : (s.issueFirst r).out = s.out := rfl
@[simp] theorem State.issueFirst_resp : (s.issueFirst r).resp = s.resp := rfl
@[simp] theorem State.issueFirst_issuer : (s.issueFirst r).issuer = s.issuer := rfl
@[simp] theorem State.issueFirst_startEnv : (s.issueFirst r).startEnv = s.startEnv := rfl
@[simp] theorem State.issueFirst_stopEnv : (s.issueFirst r).stopEnv = s.stopEnv := rfl
@[simp] theorem State.issueFirst_queue : (s.issueFirst r).queue = r :: s.queue := rfl

end

end Sys2Proof.Machine
end

