-- ==== Sys2Proof/Laws/Ring.lean ====
section
/-! SUPPORT. Ring space: what a store, a write and a consume can do, and what they do to the byte stream. -/

namespace Sys2Proof.Machine

/-! ### Indices -/

/-- Indices less than a whole turn apart are distinct. -/
theorem ring_index_inj {cap a i k : Nat} (hi : i < cap) (hk : k < cap)
    (h : (a + i) % cap = (a + k) % cap) : i = k := by
  have h1 : i ≡ k [MOD cap] := Nat.ModEq.add_left_cancel' a h
  have h2 : i % cap = k % cap := h1
  rwa [Nat.mod_eq_of_lt hi, Nat.mod_eq_of_lt hk] at h2

theorem ring_index_add (cap a b k : Nat) : ((a + b) % cap + k) % cap = (a + (b + k)) % cap := by
  rw [Nat.mod_add_mod, Nat.add_assoc]

/-! ### Storing -/

theorem ringStore_wf (cap : Nat) {m : Memory} (h : Memory.wf m) (wr : Nat) (bytes : List Byte) :
    Memory.wf (ringStore cap m wr bytes) := by
  induction bytes generalizing m wr with
  | nil => exact h
  | cons b rest ih => exact ih (cellSet_wf h _ _) _

/-- A store leaves every index it does not write. -/
theorem ringStore_other (cap : Nat) (m : Memory) (wr : Nat) (bytes : List Byte) {j : Nat}
    (h : ∀ i, i < bytes.length → (wr + i) % cap ≠ j) :
    cellGet (ringStore cap m wr bytes) j = cellGet m j := by
  induction bytes generalizing m wr with
  | nil => rfl
  | cons b rest ih =>
    unfold ringStore
    rw [ih]
    · exact cellGet_cellSet_other _ (by simpa using h 0 (by simp)) _
    · intro i hi
      have := h (i + 1) (by simpa using hi)
      rwa [show wr + 1 + i = wr + (i + 1) by omega]

/-- A store of at most a whole turn puts byte `k` at index `(WR + k) mod C`. -/
theorem ringStore_stored (cap : Nat) (m : Memory) (wr : Nat) (bytes : List Byte) (hlen : bytes.length ≤ cap)
    {k : Nat} (hk : k < bytes.length) :
    cellGet (ringStore cap m wr bytes) ((wr + k) % cap) = some bytes[k] := by
  induction bytes generalizing m wr k with
  | nil => exact absurd hk (by simp)
  | cons b rest ih =>
    unfold ringStore
    cases k with
    | zero =>
      rw [ringStore_other]
      · simpa using cellGet_cellSet_same m (wr % cap) b
      · intro i hi e
        simp only [List.length_cons] at hlen
        have := ring_index_inj (cap := cap) (a := wr) (i := i + 1) (k := 0) (by omega) (by omega)
          (by rw [show wr + (i + 1) = wr + 1 + i by omega]; exact e)
        omega
    | succ k =>
      simp only [List.length_cons, Nat.add_lt_add_iff_right] at hk hlen
      have := ih (cellSet m (wr % cap) b) (wr + 1) (by omega) hk
      rw [show wr + (k + 1) = wr + 1 + k by omega, this]
      simp

/-- An index a store writes is one of `(WR + i) mod C`; every other cell is as before. -/
theorem ringStore_range (cap : Nat) {m : Memory} (hcap : 0 < cap) (h : ∀ i, cap ≤ i → cellGet m i = none)
    (wr : Nat) (bytes : List Byte) : ∀ i, cap ≤ i → cellGet (ringStore cap m wr bytes) i = none := by
  intro i hi
  rw [ringStore_other, h i hi]
  intro j _ e
  have := Nat.mod_lt (wr + j) hcap
  omega

/-! ### Operations -/

/-- All that RB.WRITE can do. -/
theorem ringWrite_cases (s : State) (bytes : List Byte) :
    (s.cap - s.count < bytes.length ∧ ringWrite s bytes = (s.bumpOvf, .fail)) ∨
      (bytes.length ≤ s.cap - s.count ∧ ringWrite s bytes = (s.append bytes, .ok)) := by
  unfold ringWrite overflows
  by_cases h : s.cap - s.count < bytes.length
  · exact .inl ⟨h, by simp [h]⟩
  · exact .inr ⟨by omega, by simp [h]⟩

/-- All that RB.CONSUME can do. -/
theorem ringConsume_cases (s : State) (len : Nat) :
    (s.count < len ∧ ringConsume s len = .error .consumeBeyondCount) ∨
      (len ≤ s.count ∧ ringConsume s len = .ok (s.advance len)) := by
  unfold ringConsume
  by_cases h : s.count < len
  · exact .inl ⟨h, by simp [h]⟩
  · exact .inr ⟨by omega, by simp [h]⟩

/-- All that `RBRead` can do. -/
theorem rbRead_cases (s : State) (k : Nat) :
    (k < s.count ∧ rbRead s k = .ok (streamByte s k)) ∨ (s.count ≤ k ∧ rbRead s k = .error .readBeyondCount) := by
  unfold rbRead
  by_cases h : k < s.count
  · exact .inl ⟨h, by simp [h]⟩
  · exact .inr ⟨by omega, by simp [h]⟩

theorem rbRead_ok {s : State} {k : Nat} (h : k < s.count) : rbRead s k = .ok (streamByte s k) := by
  simp [rbRead, h]

/-! ### The stream -/

@[simp] theorem stream_length (s : State) : (stream s).length = s.count := by simp [stream]

theorem stream_get (s : State) {k : Nat} (h : k < s.count) :
    (stream s)[k]'(by simpa using h) = streamByte s k := by simp [stream]

/-- The stream depends on the ring buffer alone. -/
theorem stream_congr {s t : State} (hm : t.mem = s.mem) (he : t.memEpoch = s.memEpoch) (hc : t.cap = s.cap)
    (hr : t.rd = s.rd) (hn : t.count = s.count) : stream t = stream s := by
  simp [stream, streamByte, memByte, hm, he, hc, hr, hn]

theorem stream_of_count_zero {s : State} (h : s.count = 0) : stream s = [] := by simp [stream, h]

theorem streamByte_advance (s : State) (len k : Nat) : streamByte (s.advance len) k = streamByte s (len + k) := by
  simp [streamByte, memByte, Nat.add_assoc]

/-- Consuming takes bytes from the front of the stream. -/
theorem stream_advance (s : State) (len : Nat) : stream (s.advance len) = (stream s).drop len := by
  apply List.ext_getElem
  · simp
  · intro k h1 h2
    simp only [stream_length, State.advance_count, List.length_drop] at h1 h2
    rw [stream_get _ (by simpa using h1), List.getElem_drop, stream_get _ (by omega), streamByte_advance]

theorem memByte_append_stored (s : State) (bytes : List Byte) (h : bytes.length ≤ s.cap) {k : Nat}
    (hk : k < bytes.length) : memByte (s.append bytes) ((s.wr + k) % s.cap) = bytes[k] := by
  simp [memByte, ringStore_stored s.cap s.mem s.wr bytes h hk]

theorem memByte_append_other (s : State) (bytes : List Byte) {j : Nat}
    (h : ∀ i, i < bytes.length → (s.wr + i) % s.cap ≠ j) : memByte (s.append bytes) j = memByte s j := by
  simp [memByte, ringStore_other s.cap s.mem s.wr bytes h]

/-- A taken write adds its bytes at the end of the stream. -/
theorem stream_append {s : State} (hwr : s.wr = (s.rd + s.count) % s.cap) {bytes : List Byte}
    (hfit : s.count + bytes.length ≤ s.cap) : stream (s.append bytes) = stream s ++ bytes := by
  apply List.ext_getElem
  · simp
  · intro k h1 h2
    simp only [stream_length, State.append_count] at h1
    rw [stream_get _ (by simpa using h1)]
    have hidx : ∀ i, (s.wr + i) % s.cap = (s.rd + (s.count + i)) % s.cap := by
      intro i; rw [hwr, ring_index_add]
    by_cases hk : k < s.count
    · rw [List.getElem_append_left (by simpa using hk), stream_get _ hk]
      show memByte _ _ = memByte _ _
      simp only [State.append_rd, State.append_cap]
      refine memByte_append_other s bytes fun i hi e => ?_
      rw [hidx] at e
      have := ring_index_inj (by omega) (by omega) e
      omega
    · rw [List.getElem_append_right (by simpa using hk)]
      show memByte _ _ = _
      simp only [State.append_rd, State.append_cap]
      obtain ⟨i, rfl⟩ : ∃ i, k = s.count + i := ⟨k - s.count, by omega⟩
      rw [← hidx, memByte_append_stored s bytes (by omega) (by omega)]
      simp

end Sys2Proof.Machine
end

