-- ==== Sys2Proof/Laws/Demux.lean ====
section
/-! SUPPORT. The decoders and DMX.DECODE: when they read, what they answer, and what a whole decode writes. -/

namespace Sys2Proof.Machine

/-! ### One item -/

theorem itemPbN_ok {s : State} {p : Nat} (h : p + 2 ≤ s.count) :
    itemPbN s p = .ok { re := f32OfInt (s8 (streamByte s (p + 1))), im := f32OfInt (s8 (streamByte s p)) } := by
  simp [itemPbN, rbRead_ok (show p < s.count by omega), rbRead_ok (show p + 1 < s.count by omega), bind, Except.bind,
    pure, Except.pure]

theorem itemPbS_ok {s : State} {p : Nat} (h : p + 2 ≤ s.count) :
    itemPbS s p = .ok { re := f32OfInt (s8 (streamByte s p)), im := f32OfInt (s8 (streamByte s (p + 1))) } := by
  simp [itemPbS, rbRead_ok (show p < s.count by omega), rbRead_ok (show p + 1 < s.count by omega), bind, Except.bind,
    pure, Except.pure]

theorem itemP4N_ok {s : State} {p : Nat} (h : p + 1 ≤ s.count) :
    itemP4N s p = .ok { re := f32OfInt (nib ((streamByte s p).extractLsb' 0 4)),
                        im := f32OfInt (nib ((streamByte s p).extractLsb' 4 4)) } := by
  simp [itemP4N, rbRead_ok (show p < s.count by omega), bind, Except.bind, pure, Except.pure]

theorem itemP4S_ok {s : State} {p : Nat} (h : p + 1 ≤ s.count) :
    itemP4S s p = .ok { re := f32OfInt (nib ((streamByte s p).extractLsb' 4 4)),
                        im := f32OfInt (nib ((streamByte s p).extractLsb' 0 4)) } := by
  simp [itemP4S, rbRead_ok (show p < s.count by omega), bind, Except.bind, pure, Except.pure]

theorem le32_ok {s : State} {p : Nat} (h : p + 4 ≤ s.count) :
    le32 s p = .ok (leWord (streamByte s p) (streamByte s (p + 1)) (streamByte s (p + 2)) (streamByte s (p + 3))) := by
  simp [le32, rbRead_ok (show p < s.count by omega), rbRead_ok (show p + 1 < s.count by omega),
    rbRead_ok (show p + 2 < s.count by omega), rbRead_ok (show p + 3 < s.count by omega), bind, Except.bind,
    pure, Except.pure]

theorem itemPfN_ok {s : State} {p : Nat} (h : p + 8 ≤ s.count) :
    itemPfN s p = .ok
      { re := leWord (streamByte s p) (streamByte s (p + 1)) (streamByte s (p + 2)) (streamByte s (p + 3)),
        im := leWord (streamByte s (p + 4)) (streamByte s (p + 5)) (streamByte s (p + 6)) (streamByte s (p + 7)) } := by
  simp [itemPfN, le32_ok (show p + 4 ≤ s.count by omega), le32_ok (show p + 4 + 4 ≤ s.count by omega), bind, Except.bind,
    pure, Except.pure, Nat.add_assoc]

theorem itemPfS_ok {s : State} {p : Nat} (h : p + 8 ≤ s.count) :
    itemPfS s p = .ok
      { re := leWord (streamByte s (p + 4)) (streamByte s (p + 5)) (streamByte s (p + 6)) (streamByte s (p + 7)),
        im := leWord (streamByte s p) (streamByte s (p + 1)) (streamByte s (p + 2)) (streamByte s (p + 3)) } := by
  simp [itemPfS, le32_ok (show p + 4 ≤ s.count by omega), le32_ok (show p + 4 + 4 ≤ s.count by omega), bind, Except.bind,
    pure, Except.pure, Nat.add_assoc]

/-- An item whose bytes are all unconsumed decodes, under every format. -/
theorem decodeItem_ok {s : State} {p : Nat} (hf : fmtField s.cfgr ≠ 0#2) (h : p + bps (fmtField s.cfgr) ≤ s.count) :
    ∃ v, decodeItem s p = .ok v := by
  unfold decodeItem selOf
  generalize fmtField s.cfgr = f at *
  generalize swapField s.cfgr = w at *
  have hw : w = 0#1 ∨ w = 1#1 := by revert w; decide
  have hf3 : f = 1#2 ∨ f = 2#2 ∨ f = 3#2 := by clear h; revert f; decide
  rcases hf3 with rfl | rfl | rfl <;> rcases hw with rfl | rfl <;> simp [bps] at h
  · exact ⟨_, by simpa using itemPbN_ok h⟩
  · exact ⟨_, by simpa using itemPbS_ok h⟩
  · exact ⟨_, by simpa using itemP4N_ok h⟩
  · exact ⟨_, by simpa using itemP4S_ok h⟩
  · exact ⟨_, by simpa using itemPfN_ok h⟩
  · exact ⟨_, by simpa using itemPfS_ok h⟩

/-! ### Many items -/

/-- The item of sample `smp < n` and channel `ch < NCH` lies inside the `n` groups decoded (R104, R171). -/
theorem itemOffset_le (s : State) {n ch smp : Nat} (hch : ch < (nchField s.cfgr).toNat) (hsmp : smp < n) :
    itemOffset s ch smp + bps (fmtField s.cfgr) ≤ n * groupSize s.cfgr := by
  unfold itemOffset groupSize
  generalize (nchField s.cfgr).toNat = c at *
  generalize bps (fmtField s.cfgr) = b
  have h1 : smp * c + ch + 1 ≤ n * c := by
    have : (smp + 1) * c ≤ n * c := Nat.mul_le_mul_right _ hsmp
    rw [Nat.succ_mul] at this; omega
  calc (smp * c + ch) * b + b = (smp * c + ch + 1) * b := by ring
    _ ≤ n * c * b := Nat.mul_le_mul_right _ h1
    _ = n * (b * c) := by ring

/-- The first `k` channels of a sample: what is written, and that nothing else is. -/
theorem decodeChannels_ok {s : State} {smp k : Nat} (hk : k ≤ 8) (o : OutSpace)
    (h : ∀ ch, ch < k → ∃ v, decodeItem s (itemOffset s ch smp) = .ok v) :
    ∃ o', decodeChannels s smp k o = .ok o' ∧
      (∀ ch, ch < k → ∃ v, decodeItem s (itemOffset s ch smp) = .ok v ∧ outGet o' ch smp = some v) ∧
      (∀ ch smp', ch < 8 → (smp' ≠ smp ∨ k ≤ ch) → outGet o' ch smp' = outGet o ch smp') ∧
      (cellsWf o → cellsWf o') := by
  induction k with
  | zero => exact ⟨o, rfl, by simp, by simp, id⟩
  | succ k ih =>
    obtain ⟨o1, h1, hin, hout, hwf⟩ := ih (by omega) (fun ch hc => h ch (by omega))
    obtain ⟨v, hv⟩ := h k (by omega)
    refine ⟨outSet o1 k smp v, ?_, ?_, ?_, fun ho => outSet_wf (hwf ho) _ _ _⟩
    · simp [decodeChannels, h1, hv, bind, Except.bind, pure, Except.pure]
    · intro ch hc
      by_cases e : ch = k
      · subst e
        exact ⟨v, hv, by simp [outGet_outSet o1 (by omega : ch < 8) (by omega : ch < 8)]⟩
      · obtain ⟨w, hw, hg⟩ := hin ch (by omega)
        refine ⟨w, hw, ?_⟩
        rw [outGet_outSet o1 (by omega) (by omega), if_neg (by omega), hg]
    · intro ch smp' hc hor
      rw [outGet_outSet o1 (by omega) hc, if_neg (by omega)]
      exact hout ch smp' hc (by omega)

/-- The first `n` samples of every channel: what is written, and that nothing else is (R183, R186). -/
theorem decodeSamples_ok {s : State} {n : Nat} (hf : fmtField s.cfgr ≠ 0#2) (h : n * groupSize s.cfgr ≤ s.count)
    (o : OutSpace) :
    ∃ o', decodeSamples s n o = .ok o' ∧
      (∀ ch smp, ch < (nchField s.cfgr).toNat → smp < n →
        ∃ v, decodeItem s (itemOffset s ch smp) = .ok v ∧ outGet o' ch smp = some v) ∧
      (∀ ch smp, ch < 8 → ((nchField s.cfgr).toNat ≤ ch ∨ n ≤ smp) → outGet o' ch smp = outGet o ch smp) ∧
      (cellsWf o → cellsWf o') := by
  have h8 : (nchField s.cfgr).toNat < 8 := (nchField s.cfgr).isLt
  suffices ∀ m, m ≤ n → ∃ o', decodeSamples s m o = .ok o' ∧
      (∀ ch smp, ch < (nchField s.cfgr).toNat → smp < m →
        ∃ v, decodeItem s (itemOffset s ch smp) = .ok v ∧ outGet o' ch smp = some v) ∧
      (∀ ch smp, ch < 8 → ((nchField s.cfgr).toNat ≤ ch ∨ m ≤ smp) → outGet o' ch smp = outGet o ch smp) ∧
      (cellsWf o → cellsWf o') from this n le_rfl
  intro m
  induction m with
  | zero => exact fun _ => ⟨o, rfl, by simp, by simp, id⟩
  | succ m ih =>
    intro hm
    obtain ⟨o1, h1, hin, hout, hwf⟩ := ih (by omega)
    obtain ⟨o2, h2, hin2, hout2, hwf2⟩ := decodeChannels_ok (s := s) (smp := m) (by omega) o1
      (fun ch hc => decodeItem_ok hf (le_trans (itemOffset_le s hc (by omega : m < n)) h))
    refine ⟨o2, by simp [decodeSamples, h1, h2, bind, Except.bind], ?_, ?_, fun ho => hwf2 (hwf ho)⟩
    · intro ch smp hc hs
      by_cases e : smp = m
      · subst e; exact hin2 ch hc
      · obtain ⟨v, hv, hg⟩ := hin ch smp hc (by omega)
        exact ⟨v, hv, by rw [hout2 ch smp (by omega) (.inl e), hg]⟩
    · intro ch smp hc hor
      rw [hout2 ch smp hc (by omega), hout ch smp hc (by omega)]

/-- All that DMX.DECODE can do. -/
theorem demux_cases (s : State) (n : Nat) :
    (fmtField s.cfgr = 0#2 ∧ demux s n = .error .unconfiguredDecode) ∨
    (fmtField s.cfgr ≠ 0#2 ∧ s.count < n * groupSize s.cfgr ∧ demux s n = .error .decodeBeyondCount) ∨
    (fmtField s.cfgr ≠ 0#2 ∧ n * groupSize s.cfgr ≤ s.count ∧
      ∃ o, demux s n = .ok ((s.withOut o).advance (n * groupSize s.cfgr)) ∧
        (∀ ch smp, ch < (nchField s.cfgr).toNat → smp < n →
          ∃ v, decodeItem s (itemOffset s ch smp) = .ok v ∧ outGet o ch smp = some v) ∧
        (∀ ch smp, ch < 8 → ((nchField s.cfgr).toNat ≤ ch ∨ n ≤ smp) → outGet o ch smp = outGet s.out ch smp) ∧
        (cellsWf s.out → cellsWf o)) := by
  unfold demux
  by_cases hf : fmtField s.cfgr = 0#2
  · exact .inl ⟨hf, by simp [hf]⟩
  by_cases hc : s.count < n * groupSize s.cfgr
  · exact .inr (.inl ⟨hf, hc, by simp [hf, hc]⟩)
  obtain ⟨o, ho, hin, hout, hwf⟩ := decodeSamples_ok hf (by omega : n * groupSize s.cfgr ≤ s.count) s.out
  refine .inr (.inr ⟨hf, by omega, o, ?_, hin, hout, hwf⟩)
  rcases ringConsume_cases (s.withOut o) (n * groupSize s.cfgr) with ⟨h1, _⟩ | ⟨_, h2⟩
  · simp at h1; omega
  · simp [hf, hc, ho, h2, bind, Except.bind]

end Sys2Proof.Machine
end

