-- ==== Sys2Proof/Laws/Fields.lean ====
section
/-! SUPPORT. The configuration fields as numbers, and what masking the reserved bits keeps of them. -/

namespace Sys2Proof.Machine

theorem portField_toNat (w : Word) : (portField w).toNat = w.toNat % 65536 := by simp [portField]

theorem fmtField_toNat (w : Word) : (fmtField w).toNat = w.toNat / 2 ^ 16 % 4 := by
  simp [fmtField, Nat.shiftRight_eq_div_pow]

theorem swapField_toNat (w : Word) : (swapField w).toNat = w.toNat / 2 ^ 18 % 2 := by
  simp [swapField, Nat.shiftRight_eq_div_pow]

theorem nchField_toNat (w : Word) : (nchField w).toNat = w.toNat / 2 ^ 20 % 8 := by
  simp [nchField, Nat.shiftRight_eq_div_pow]

theorem nwiredField_toNat (w : Word) : (nwiredField w).toNat = w.toNat / 2 ^ 24 % 8 := by
  simp [nwiredField, Nat.shiftRight_eq_div_pow]

theorem fmtField_eq_zero (w : Word) : fmtField w = 0#2 ↔ w.toNat / 2 ^ 16 % 4 = 0 := by
  rw [← fmtField_toNat, ← BitVec.toNat_inj]; rfl

/-- `BPS` of a format that is one: 2, 1, 8 (R8, R100). -/
theorem bps_fmtField (w : Word) (h : w.toNat / 2 ^ 16 % 4 ≠ 0) :
    bps (fmtField w) = if w.toNat / 2 ^ 16 % 4 = 1 then 2 else if w.toNat / 2 ^ 16 % 4 = 2 then 1 else 8 := by
  rw [← fmtField_toNat] at *
  revert h; generalize fmtField w = f; revert f; decide

/-- `SEL` as a number (R116). -/
theorem selOf_eq (w : Word) : selOf w = BitVec.ofNat 3 (w.toNat / 2 ^ 16 % 4 * 2 + w.toNat / 2 ^ 18 % 2) := by
  rw [← fmtField_toNat, ← swapField_toNat, selOf]
  generalize fmtField w = f; generalize swapField w = x; revert f x; decide

/-- The group size as a number (R196). -/
theorem groupSize_eq (w : Word) (h : w.toNat / 2 ^ 16 % 4 ≠ 0) :
    groupSize w = (if w.toNat / 2 ^ 16 % 4 = 1 then 2 else if w.toNat / 2 ^ 16 % 4 = 2 then 1 else 8) * (w.toNat / 2 ^ 20 % 8) := by
  rw [groupSize, bps_fmtField w h, nchField_toNat]

theorem cfgrOfArg_mask (w : Word) : cfgrOfArg w &&& cfgrMask = cfgrOfArg w := by
  simp [cfgrOfArg, BitVec.and_assoc]

theorem fmtField_cfgrOfArg (w : Word) : fmtField (cfgrOfArg w) = fmtField w := by
  unfold fmtField cfgrOfArg cfgrMask
  ext i hi
  have : i = 0 ∨ i = 1 := by omega
  rcases this with rfl | rfl <;> simp [BitVec.getElem_extractLsb']

theorem nchField_cfgrOfArg (w : Word) : nchField (cfgrOfArg w) = nchField w := by
  unfold nchField cfgrOfArg cfgrMask
  ext i hi
  have : i = 0 ∨ i = 1 ∨ i = 2 := by omega
  rcases this with rfl | rfl | rfl <;> simp [BitVec.getElem_extractLsb']

theorem nwiredField_cfgrOfArg (w : Word) : nwiredField (cfgrOfArg w) = nwiredField w := by
  unfold nwiredField cfgrOfArg cfgrMask
  ext i hi
  have : i = 0 ∨ i = 1 ∨ i = 2 := by omega
  rcases this with rfl | rfl | rfl <;> simp [BitVec.getElem_extractLsb']

/-- The group size of a legal configuration is positive (R206). -/
theorem groupSize_pos {s : State} (h : Inv s) (hc : s.configured = true) : 1 ≤ groupSize s.cfgr := by
  obtain ⟨hf, h1, _⟩ := h.configuredLegal hc
  have : 1 ≤ bps (fmtField s.cfgr) := by
    revert hf; generalize fmtField s.cfgr = f; revert f; decide
  exact Nat.mul_pos this h1

end Sys2Proof.Machine
end

