-- ==== Sys2Proof/Laws/Meanings.lean ====
section
/-! SUPPORT. For each meaning with more than one outcome, once, all it can do; and for the step. -/

namespace Sys2Proof.Machine

@[simp] theorem reply_next {s t : State} {r : Response} : reply s r = .next t ↔ t = s.answer r := by
  simp [reply, eq_comm]

@[simp] theorem raise_next {s t : State} {r : Response} : raise s r = .next t ↔ t = s.answer r := by
  simp [raise, eq_comm]

/-- The session is Idle or Capturing, and nothing else (R38). -/
theorem session_cases (s : State) : s.session = .idle ∨ s.session = .capturing := by
  cases s.session <;> simp

theorem frameByte_of_lt (beyond : Nat → Byte) {frame : List Byte} {i : Nat} (h : i < frame.length) :
    frameByte beyond frame i = frame[i] := by
  simp [frameByte, h]

/-- A payload inside the frame has the length announced. -/
theorem payloadOf_length {frame : List Byte} {off len : Nat} (h : off + len ≤ frame.length) :
    (payloadOf frame off len).length = len := by
  simp [payloadOf]; omega

/-- All that the UDP half of HP.PARSE can do. -/
theorem parseUdp_cases (beyond : Nat → Byte) (port : BitVec 16) (frame : List Byte) (u : Nat) :
    parseUdp beyond port frame u = none ∨
      (u + 8 ≤ frame.length ∧ be16 beyond frame (u + 2) = port.toNat ∧ 8 ≤ be16 beyond frame (u + 4) ∧
        u + be16 beyond frame (u + 4) ≤ frame.length ∧
        parseUdp beyond port frame u = some (u + 8, be16 beyond frame (u + 4) - 8)) := by
  unfold parseUdp payloadLength Config.udpHlen
  generalize be16 beyond frame (u + 2) = dport
  generalize be16 beyond frame (u + 4) = ulen
  split
  · exact .inl rfl
  split
  · exact .inl rfl
  split
  · exact .inl rfl
  split
  · exact .inl rfl
  · refine .inr ⟨by omega, by omega, by omega, by omega, ?_⟩
    simp only [Option.some.injEq, Prod.mk.injEq, true_and]
    omega

/-- All that HP.PARSE can do. -/
theorem parseFrameWith_cases (beyond : Nat → Byte) (port : BitVec 16) (frame : List Byte) :
    parseFrameWith beyond port frame = none ∨
      (15 ≤ frame.length ∧ be16 beyond frame 12 = 0x0800 ∧
        parseFrameWith beyond port frame = parseUdp beyond port frame (udpOffset (frameByte beyond frame 14))) := by
  unfold parseFrameWith Config.ethHlen Config.ethertypeIpv4
  split
  · exact .inl rfl
  split
  · exact .inl rfl
  split
  · exact .inl rfl
  · exact .inr ⟨by omega, by omega, rfl⟩

/-- An accepted payload lies inside the frame (R138, R145). -/
theorem parseFrame_inside {port : BitVec 16} {frame : List Byte} {off len : Nat}
    (h : parseFrame port frame = some (off, len)) : 22 ≤ off ∧ off + len ≤ frame.length := by
  unfold parseFrame at h
  rcases parseFrameWith_cases Config.beyondFrame port frame with h1 | ⟨_, _, h1⟩ <;> rw [h1] at h
  · simp at h
  rcases parseUdp_cases Config.beyondFrame port frame (udpOffset (frameByte Config.beyondFrame frame 14)) with
    h2 | ⟨_, _, _, _, h2⟩ <;> rw [h2] at h
  · simp at h
  · simp only [Option.some.injEq, Prod.mk.injEq] at h
    obtain ⟨rfl, rfl⟩ := h
    refine ⟨?_, by omega⟩
    simp only [udpOffset, Config.ethHlen]; omega

/-- All that CA.PRODUCE can do. -/
theorem execCaProduce_cases (requested : Word) (s : State) :
    (s.configured = false ∧ execCaProduce requested s = raise s (.refused .notConfigured)) ∨
    (s.configured = true ∧ groupSize s.cfgr = 0 ∧ execCaProduce requested s = .fault .unconfiguredDecode) ∨
    (s.configured = true ∧ groupSize s.cfgr ≠ 0 ∧ deliverable s requested.toNat = 0 ∧
      execCaProduce requested s = reply s (.word 0#32)) ∨
    (s.configured = true ∧ groupSize s.cfgr ≠ 0 ∧ deliverable s requested.toNat ≠ 0 ∧
      deliverable s requested.toNat * groupSize s.cfgr ≤ s.count ∧
      ∃ t, demux s (deliverable s requested.toNat) = .ok t ∧
        execCaProduce requested s = reply t (.word (BitVec.ofNat 32 (deliverable s requested.toNat)))) := by
  unfold execCaProduce
  rcases Bool.eq_false_or_eq_true s.configured with hc | hc
  swap
  · exact .inl ⟨hc, by simp [hc]⟩
  by_cases hg : groupSize s.cfgr = 0
  · exact .inr (.inl ⟨hc, hg, by simp [hc, hg]⟩)
  by_cases hd : deliverable s requested.toNat = 0
  · exact .inr (.inr (.inl ⟨hc, hg, hd, by simp [hc, hg, hd]⟩))
  have hle : deliverable s requested.toNat * groupSize s.cfgr ≤ s.count :=
    le_trans (Nat.mul_le_mul_right _ (Nat.min_le_right ..)) (Nat.div_mul_le_self ..)
  refine .inr (.inr (.inr ⟨hc, hg, hd, hle, ?_⟩))
  rcases demux_cases s (deliverable s requested.toNat) with ⟨hf, _⟩ | ⟨_, hlt, _⟩ | ⟨_, _, o, ho, _⟩
  · exact absurd (by simp [groupSize, hf, bps]) hg
  · omega
  · exact ⟨_, ho, by simp [hc, hg, hd, ho]⟩

/-- All that CS.CFG can do. -/
theorem execCsCfg_cases (arg : Word) (s : State) :
    (s.session = .capturing ∧ execCsCfg arg s = raise s (.refused .notIdle)) ∨
    (s.session = .idle ∧ fmtField arg = 0#2 ∧
      execCsCfg arg s = raise s.clearConfigured (.configurationError .unknownFormat)) ∨
    (s.session = .idle ∧ fmtField arg ≠ 0#2 ∧ badChannelCount arg = true ∧
      execCsCfg arg s = raise s.clearConfigured (.configurationError .channelCount)) ∨
    (s.session = .idle ∧ fmtField arg ≠ 0#2 ∧ badChannelCount arg = false ∧
      execCsCfg arg s = reply (s.configure arg) .ok) := by
  unfold execCsCfg
  rcases session_cases s with hs | hs
  swap
  · exact .inl ⟨hs, by simp [hs]⟩
  by_cases hf : fmtField arg = 0#2
  · exact .inr (.inl ⟨hs, hf, by simp [hs, hf]⟩)
  rcases Bool.eq_false_or_eq_true (badChannelCount arg) with hb | hb
  · exact .inr (.inr (.inl ⟨hs, hf, hb, by simp [hs, hf, hb]⟩))
  · exact .inr (.inr (.inr ⟨hs, hf, hb, by simp [hs, hf, hb]⟩))

/-- All that CS.START can do. -/
theorem execCsStart_cases (s : State) :
    (s.configured = false ∧ execCsStart s = raise s (.refused .notConfigured)) ∨
    (s.configured = true ∧ s.session = .capturing ∧ execCsStart s = raise s (.refused .notIdle)) ∨
    (s.configured = true ∧ s.session = .idle ∧ s.startEnv = .devFail ∧
      execCsStart s = raise s (.startupError .deviceOpen)) ∨
    (s.configured = true ∧ s.session = .idle ∧ s.startEnv = .bindFail ∧
      execCsStart s = raise s (.startupError .socketBind)) ∨
    (s.configured = true ∧ s.session = .idle ∧ s.startEnv = .ok ∧
      execCsStart s = reply (s.withSession .capturing) .ok) := by
  unfold execCsStart
  rcases Bool.eq_false_or_eq_true s.configured with hc | hc <;> rcases session_cases s with hs | hs <;>
    cases he : s.startEnv <;> simp [hc, hs]

/-- All that CS.STOP can do. -/
theorem execCsStop_cases (s : State) :
    (s.session = .idle ∧ execCsStop s = raise s (.refused .notCapturing)) ∨
    (s.session = .capturing ∧ s.stopEnv = .joinFail ∧ execCsStop s = raise s.setFault .shutdownError) ∨
    (s.session = .capturing ∧ s.stopEnv = .ok ∧ execCsStop s = reply (s.withSession .idle) .ok) := by
  unfold execCsStop
  rcases session_cases s with hs | hs <;> cases he : s.stopEnv <;> simp [hs]

/-- All that CS.FRAME can do. -/
theorem execCsFrame_cases (frame : List Byte) (s : State) :
    (s.session = .idle ∧ execCsFrame frame s = reply s .none) ∨
    (s.session = .capturing ∧ parseFrame (portField s.cfgr) frame = none ∧ execCsFrame frame s = reply s .none) ∨
    (s.session = .capturing ∧ ∃ off len, parseFrame (portField s.cfgr) frame = some (off, len) ∧
      ((s.cap - s.count < (payloadOf frame off len).length ∧ execCsFrame frame s = reply s.bumpOvf .none) ∨
        ((payloadOf frame off len).length ≤ s.cap - s.count ∧
          execCsFrame frame s = reply (s.append (payloadOf frame off len)) .none))) := by
  unfold execCsFrame
  rcases session_cases s with hs | hs
  · exact .inl ⟨hs, by simp [hs]⟩
  cases hp : parseFrame (portField s.cfgr) frame with
  | none => exact .inr (.inl ⟨hs, rfl, by simp [hs]⟩)
  | some r =>
    obtain ⟨off, len⟩ := r
    refine .inr (.inr ⟨hs, off, len, rfl, ?_⟩)
    rcases ringWrite_cases s (payloadOf frame off len) with ⟨h, e⟩ | ⟨h, e⟩
    · exact .inl ⟨h, by simp [hs, e]⟩
    · exact .inr ⟨h, by simp [hs, e]⟩

/-- A decoder called directly, if it answers, answers its item and changes nothing else. -/
theorem replyItem_next {s t : State} {item : Except Fault Sample} (h : replyItem s item = .next t) :
    ∃ v, item = .ok v ∧ t = s.answer (.sample v) := by
  unfold replyItem at h
  cases item with
  | error f => simp at h
  | ok v => exact ⟨v, rfl, by simpa using h⟩

/-- CS.FRAME is RB.WRITE of the payload it offers, if it offers one (R215). -/
theorem execCsFrame_offered (frame : List Byte) (s : State) :
    execCsFrame frame s =
      match framePayload frame s with
      | none => reply s .none
      | some bytes => reply (ringWrite s bytes).1 .none := by
  unfold execCsFrame framePayload
  rcases session_cases s with hs | hs
  · simp [hs]
  · cases parseFrame (portField s.cfgr) frame <;> simp [hs]

/-- All that an operation that offers a payload and answers a next state can have done: the payload fits and is taken, or it
does not and is counted. -/
theorem exec_offered {i : Instr} {s t : State} {bytes : List Byte} (ho : offered i s = some bytes) (h : exec i s = .next t) :
    (s.cap - s.count < bytes.length ∧ ∃ r, t = s.bumpOvf.answer r) ∨
      (bytes.length ≤ s.cap - s.count ∧ ∃ r, t = (s.append bytes).answer r) := by
  suffices ∃ r, t = (ringWrite s bytes).1.answer r by
    obtain ⟨r, rfl⟩ := this
    rcases ringWrite_cases s bytes with ⟨hb, e⟩ | ⟨hb, e⟩ <;> rw [e]
    · exact .inl ⟨hb, r, rfl⟩
    · exact .inr ⟨hb, r, rfl⟩
  cases i with
  | rbWrite b =>
    simp only [offered, Option.some.injEq] at ho
    subst ho
    exact ⟨_, by simpa [exec, execRbWrite] using h⟩
  | csFrame frame =>
    simp only [offered] at ho
    simp only [exec, execCsFrame_offered, ho, reply_next] at h
    exact ⟨_, h⟩
  | _ => simp [offered] at ho

/-- What a request can be: refused for want of a port, an operation, or nothing that reads as one. -/
theorem fetch_cases (r : Request) :
    (r.agent ≠ .testBench ∧ benchOnly r.wire = true ∧ fetch r = .error .internalOnly) ∨
    ((r.agent = .testBench ∨ benchOnly r.wire = false) ∧
      ((∃ i, decode r.wire = .ok i ∧ fetch r = .ok i) ∨ (∃ e, decode r.wire = .error e ∧ fetch r = .error (.unread e)))) := by
  unfold fetch
  by_cases hp : r.agent ≠ .testBench ∧ benchOnly r.wire = true
  · exact .inl ⟨hp.1, hp.2, by rw [if_pos hp]⟩
  rw [if_neg hp]
  refine .inr ⟨?_, ?_⟩
  · by_cases ha : r.agent = .testBench
    · exact .inl ha
    · exact .inr (by simpa [ha] using hp)
  · cases decode r.wire with
    | ok i => exact .inl ⟨i, rfl, rfl⟩
    | error e => exact .inr ⟨e, rfl, rfl⟩

/-- No decoder has a port (R21, R116). -/
theorem decoderOf_internal {sel : BitVec 3} {p : Nat} {i : Instr} (h : decoderOf sel p = some i) : isExternal i = false := by
  unfold decoderOf at h
  split_ifs at h <;> (cases h; rfl)

/-- A wire that reads as an operation is kept to the test bench just where the operation is internal (R21, R112). -/
theorem benchOnly_of_decode {w : Wire} {i : Instr} (h : decode w = .ok i) : benchOnly w = !isExternal i := by
  cases w with
  | command bytes => simp only [decode] at h; simp [benchOnly, h]
  | decoder sel p =>
    simp only [decode] at h
    split at h
    · next hd => cases h; simp [benchOnly, decoderOf_internal hd]
    · cases h

/-- A request whose operation its agent's port takes, or a test bench's, is that operation (R21, R112). -/
theorem fetch_of_decode {r : Request} {i : Instr} (h : decode r.wire = .ok i)
    (ha : r.agent = .testBench ∨ isExternal i = true) : fetch r = .ok i := by
  unfold fetch
  rw [if_neg, h]
  rintro ⟨h1, h2⟩
  rw [benchOnly_of_decode h] at h2
  rcases ha with ha | ha
  · exact h1 ha
  · simp [ha] at h2

/-- A command that reads as no operation is that, whoever issued it. -/
theorem fetch_of_error {r : Request} {bytes : List Byte} {e : DecodeError} (hw : r.wire = .command bytes)
    (h : decode r.wire = .error e) : fetch r = .error (.unread e) := by
  have hb : benchOnly r.wire = false := by rw [hw] at h ⊢; simp only [decode] at h; simp [benchOnly, h]
  simp [fetch, hb, h]

/-- All that a step that answers a next state can have done. -/
theorem step_cases {s t : State} (h : step s = .next t) :
    (s.queue = [] ∧ t = s) ∨
    ∃ r rest, s.queue = r :: rest ∧
      ((∃ i, decode r.wire = .ok i ∧ fetch r = .ok i ∧ exec i (s.take r rest) = .next t) ∨
        (decode r.wire = .error .incomplete ∧ fetch r = .error (.unread .incomplete) ∧ t = s) ∨
        (∃ op, decode r.wire = .error (.unknownOp op) ∧ fetch r = .error (.unread (.unknownOp op)) ∧
          t = (s.take r rest).answer (.refused .unknownOp))) := by
  unfold step at h
  split at h
  · next hq => exact .inl ⟨hq, by simpa [eq_comm] using h⟩
  · next r rest hq =>
    refine .inr ⟨r, rest, hq, ?_⟩
    rcases fetch_cases r with ⟨_, _, hf⟩ | ⟨_, ⟨i, hd, hf⟩ | ⟨e, hd, hf⟩⟩ <;> rw [hf] at h
    · simp [rejectRequest] at h
    · exact .inl ⟨i, hd, hf, h⟩
    · cases e with
      | incomplete => exact .inr (.inl ⟨hd, hf, by simpa [rejectRequest, eq_comm] using h⟩)
      | unknownOp op => exact .inr (.inr ⟨op, hd, hf, by simpa [rejectRequest] using h⟩)
      | overlong => simp [rejectRequest] at h
      | noDecoder sel => simp [rejectRequest] at h

end Sys2Proof.Machine
end

