-- ==== Sys2Proof/Laws/PerInstr.lean ====
section
/-! SUPPORT. Statements made of every operation, one lemma per constructor. -/

namespace Sys2Proof.Laws.FormatLength

/-- The code an operation is named by: `OP` for a command, `SEL` for a decoder (R112, R116, R220). -/
def codeOf : Instr → Nat
  | .hpParse _ => 0x10 | .rbWrite _ => 0x20 | .rbAvail => 0x21 | .rbConsume _ => 0x22 | .rbOvf => 0x23
  | .dmxDecode _ => 0x30 | .caProduce _ => 0x40 | .csCfg _ => 0x50 | .csStart => 0x51 | .csStop => 0x52
  | .csFrame _ => 0x53 | .csRdreg _ => 0x54 | .csStatus => 0x54 | .csReset => 0x5F
  | .decPbN _ => 2 | .decPbS _ => 3 | .decP4N _ => 4 | .decP4S _ => 5 | .decPfN _ => 6 | .decPfS _ => 7

/-- The length of a command in bytes under its format (R110); none for a decoder, which is no command (R116). -/
def lengthOf : Instr → Option Nat
  | .hpParse frame => some (3 + frame.length) | .rbWrite bytes => some (3 + bytes.length) | .csFrame frame => some (3 + frame.length)
  | .rbAvail | .rbOvf | .csStart | .csStop | .csReset => some 1
  | .rbConsume _ | .dmxDecode _ | .caProduce _ | .csCfg _ | .csRdreg _ | .csStatus => some 5
  | .decPbN _ | .decPbS _ | .decP4N _ | .decP4S _ | .decPfN _ | .decPfS _ => none

/-- The encoding of an operation has the length of its format and begins with its code. -/
def Statement (i : Instr) : Prop :=
  match encode i with
  | .command bytes => lengthOf i = some bytes.length ∧ bytes.head?.map BitVec.toNat = some (codeOf i)
  | .decoder sel _ => lengthOf i = none ∧ sel.toNat = codeOf i

theorem hpParse (frame : List Byte) : Statement (.hpParse frame) := by simp [Statement, encode, encodeS, lengthOf, codeOf]; omega
theorem rbWrite (bytes : List Byte) : Statement (.rbWrite bytes) := by simp [Statement, encode, encodeS, lengthOf, codeOf]; omega
theorem rbAvail : Statement .rbAvail := by simp [Statement, encode, lengthOf, codeOf]
theorem rbConsume (len : Word) : Statement (.rbConsume len) := by simp [Statement, encode, encodeW, lengthOf, codeOf]
theorem rbOvf : Statement .rbOvf := by simp [Statement, encode, lengthOf, codeOf]
theorem dmxDecode (n : Word) : Statement (.dmxDecode n) := by simp [Statement, encode, encodeW, lengthOf, codeOf]
theorem caProduce (n : Word) : Statement (.caProduce n) := by simp [Statement, encode, encodeW, lengthOf, codeOf]
theorem csCfg (arg : Word) : Statement (.csCfg arg) := by simp [Statement, encode, encodeW, lengthOf, codeOf]
theorem csStart : Statement .csStart := by simp [Statement, encode, lengthOf, codeOf]
theorem csStop : Statement .csStop := by simp [Statement, encode, lengthOf, codeOf]
theorem csFrame (frame : List Byte) : Statement (.csFrame frame) := by simp [Statement, encode, encodeS, lengthOf, codeOf]; omega
theorem csRdreg (n : Word) : Statement (.csRdreg n) := by simp [Statement, encode, encodeW, lengthOf, codeOf]
theorem csStatus : Statement .csStatus := by simp [Statement, encode, encodeW, lengthOf, codeOf]
theorem csReset : Statement .csReset := by simp [Statement, encode, lengthOf, codeOf]
theorem decPbN (p : Nat) : Statement (.decPbN p) := by simp [Statement, encode, lengthOf, codeOf]
theorem decPbS (p : Nat) : Statement (.decPbS p) := by simp [Statement, encode, lengthOf, codeOf]
theorem decP4N (p : Nat) : Statement (.decP4N p) := by simp [Statement, encode, lengthOf, codeOf]
theorem decP4S (p : Nat) : Statement (.decP4S p) := by simp [Statement, encode, lengthOf, codeOf]
theorem decPfN (p : Nat) : Statement (.decPfN p) := by simp [Statement, encode, lengthOf, codeOf]
theorem decPfS (p : Nat) : Statement (.decPfS p) := by simp [Statement, encode, lengthOf, codeOf]

end Sys2Proof.Laws.FormatLength
end

