-- ==== Sys2Proof/Laws/Runs.lean ====
section
/-! SUPPORT. Runs with the operations they ran. -/

namespace Sys2Proof.Machine

@[simp] theorem runEvents_zero (s : State) : runEvents 0 s = some (s, []) := rfl

/-- A run of at least one step is a step and the run after it. -/
theorem runEvents_succ {k : Nat} {s t : State} {events : List Event} (h : runEvents (k + 1) s = some (t, events)) :
    ∃ u rest, step s = .next u ∧ runEvents k u = some (t, rest) ∧ events = stepEvents s u ++ rest := by
  simp only [runEvents] at h
  split at h
  · next u hu =>
    obtain ⟨⟨v, rest⟩, hr, he⟩ := Option.map_eq_some_iff.1 h
    obtain ⟨rfl, rfl⟩ := Prod.mk.injEq .. ▸ he
    exact ⟨u, rest, hu, hr, rfl⟩
  · simp at h
  · simp at h

/-- The last response of a kind is that of some operation of that kind in the run. -/
theorem lastAnswer_mem {a : Agent} {kind : Instr → Bool} {events : List Event} {r : Response}
    (h : lastAnswer a kind events = some r) : ∃ e, e ∈ events ∧ e.agent = a ∧ kind e.op = true ∧ e.answer = r := by
  obtain ⟨e, he, hr⟩ := Option.map_eq_some_iff.1 h
  have hm := List.mem_filter.1 (List.mem_of_getLast? he)
  obtain ⟨h1, h2⟩ := Bool.and_eq_true .. ▸ hm.2
  exact ⟨e, hm.1, eq_of_beq h1, h2, hr⟩

end Sys2Proof.Machine
end

