-- ==== Sys2Proof/Tests/Slice0.lean ====
section
/-! SUPPORT. Tests: what is ill-formed, the spec's own command bytes, vectors of 95_test_vectors.md, and for each statement with
hypotheses a state and operands that meet them all. -/

namespace Sys2Proof.Tests

open Sys2Proof.Machine

/-! ### States and views -/

/-- A block of capacity `c` right after reset. -/
def fresh (c : Nat) : State := { State.reset with cap := c }

/-- A block with configuration word `cfg`, cursors at `wr` and `rd`, `count` bytes, and the given `MEM`. -/
def block (c : Nat) (cfg : Word) (wr rd count : Nat) (mem : Memory) : State :=
  { fresh c with cfgr := cfg, configured := true, wr := wr, rd := rd, count := count, mem := mem }

/-- Bytes listed from index 0. -/
def cells (bytes : List Byte) : Memory := bytes.zipIdx.map (fun p => (p.2, p.1))

/-- A configured block whose unconsumed bytes are `bytes`, from index 0. -/
def holding (c : Nat) (cfg : Word) (bytes : List Byte) : State :=
  block c cfg (bytes.length % c) 0 bytes.length (cells bytes)

def capturing (s : State) : State := { s with session := .capturing }

/-- The request of an operation by the test bench, all environment answers `ok`. -/
def request (w : Wire) : Request := { agent := .testBench, wire := w, startEnv := .ok, stopEnv := .ok, arrays := none }

/-- The request of a command by an agent, all environment answers `ok`. -/
def requestOf (a : Agent) (bytes : List Byte) : Request := { request (.command bytes) with agent := a }

def issued (s : State) (bytes : List Byte) : State := { s with queue := [request (.command bytes)] }

def stateOf : Result → Option State
  | .next t => some t
  | _ => none

def respOf (r : Result) : Option Response := (stateOf r).map (·.resp)

/-- (`WR`, `RD`, `COUNT`, `OVF`) as the vectors write it. -/
def cursors (r : Result) : Option (Nat × Nat × Nat × Word) := (stateOf r).map (fun t => (t.wr, t.rd, t.count, t.ovf))

def faultOf : Result → Option Fault
  | .fault f => some f
  | _ => none

/-- Frame F1 of 95_test_vectors.md section 2. -/
def f1 : List Byte :=
  [0x00, 0x11, 0x22, 0x33, 0x44, 0x55, 0x66, 0x77, 0x88, 0x99, 0xAA, 0xBB, 0x08, 0x00]
  ++ [0x45, 0x00, 0x00, 0x20, 0x00, 0x00, 0x40, 0x00, 0x40, 0x11, 0x00, 0x00, 0xC0, 0xA8, 0x01, 0x02, 0xC0, 0xA8, 0x01, 0x01]
  ++ [0x12, 0x34, 0x04, 0xD2, 0x00, 0x0C, 0x00, 0x00, 0x01, 0x02, 0x03, 0x04]

/-- The argument of V-CS-1: port 1234, PackedByte, no swap, one channel, one wired output. -/
def pb1 : Word := 0x011104D2

/-- The finite facts from which the invariant of a concrete state follows. -/
theorem inv_of (s : State) (h : 1 ≤ s.cap ∧ s.count ≤ s.cap ∧ s.wr < s.cap ∧ s.rd < s.cap ∧ s.wr = (s.rd + s.count) % s.cap
    ∧ Memory.wf s.mem ∧ (∀ e, e ∈ s.mem → e.1 < s.cap) ∧ (∀ k, k < s.count → (cellGet s.mem ((s.rd + k) % s.cap)).isSome)
    ∧ s.cfgr &&& cfgrMask = s.cfgr
    ∧ (s.configured = true → fmtField s.cfgr ≠ 0#2 ∧ 1 ≤ (nchField s.cfgr).toNat ∧ (nchField s.cfgr).toNat ≤ 4
        ∧ (nchField s.cfgr).toNat ≤ (nwiredField s.cfgr).toNat)
    ∧ (s.session = .capturing → s.configured = true) ∧ cellsWf s.out) : Inv s := by
  obtain ⟨h1, h2, h3, h4, h5, h6, h7, h8, h9, h10, h11, h12⟩ := h
  refine ⟨h1, h2, h3, h4, h5, h6, fun i hi => ?_, h8, h9, h10, h11, h12⟩
  revert h7
  clear h6 h8
  induction s.mem with
  | nil => exact fun _ => rfl
  | cons e rest ih =>
    intro h7
    obtain ⟨k, v⟩ := e
    have hk : k < s.cap := h7 (k, v) (List.mem_cons_self ..)
    simp only [cellGet]
    rw [if_neg (by omega)]
    exact ih fun e he => h7 e (List.mem_cons_of_mem _ he)

/-! ### Well-formedness: an ill-formed term for each check -/

theorem test_wf_frame_too_long : wellFormed (.hpParse (List.replicate 65536 0)) = false := by
  change fitsLen _ = false; unfold fitsLen; rw [List.length_replicate]; decide
theorem test_wf_write_too_long : wellFormed (.rbWrite (List.replicate 65536 0)) = false := by
  change fitsLen _ = false; unfold fitsLen; rw [List.length_replicate]; decide
theorem test_wf_captured_too_long : wellFormed (.csFrame (List.replicate 65536 0)) = false := by
  change fitsLen _ = false; unfold fitsLen; rw [List.length_replicate]; decide
theorem test_wf_longest : wellFormed (.csFrame (List.replicate 65535 0)) = true := by
  change fitsLen _ = true; unfold fitsLen; rw [List.length_replicate]; decide
theorem test_wf_register_one : wellFormed (.csRdreg 1) = false := by decide

/-! ### Decoding: bytes from R110, R112, R113, R116 and the programs of 95_test_vectors.md -/

theorem test_decode_hpParse : decode (.command [0x10, 0x00, 0x02, 0xAA, 0xBB]) = .ok (.hpParse [0xAA, 0xBB]) := by decide
theorem test_decode_rbWrite : decode (.command [0x20, 0x00, 0x02, 0x11, 0x22]) = .ok (.rbWrite [0x11, 0x22]) := by decide
theorem test_decode_rbAvail : decode (.command [0x21]) = .ok .rbAvail := by decide
theorem test_decode_rbConsume : decode (.command [0x22, 0x01, 0x02, 0x03, 0x04]) = .ok (.rbConsume 0x01020304) := by decide
theorem test_decode_rbOvf : decode (.command [0x23]) = .ok .rbOvf := by decide
theorem test_decode_dmxDecode : decode (.command [0x30, 0x00, 0x00, 0x01, 0x02]) = .ok (.dmxDecode 0x102) := by decide
theorem test_decode_caProduce : decode (.command [0x40, 0x00, 0x00, 0x00, 0x0A]) = .ok (.caProduce 10) := by decide
theorem test_decode_csCfg : decode (.command [0x50, 0x01, 0x11, 0x04, 0xD2]) = .ok (.csCfg 0x011104D2) := by decide
theorem test_decode_csStart : decode (.command [0x51]) = .ok .csStart := by decide
theorem test_decode_csStop : decode (.command [0x52]) = .ok .csStop := by decide
theorem test_decode_csFrame : decode (.command ([0x53, 0x00, 0x2E] ++ f1)) = .ok (.csFrame f1) := by decide
theorem test_decode_csRdreg : decode (.command [0x54, 0x00, 0x00, 0x00, 0x06]) = .ok (.csRdreg 6) := by decide
theorem test_decode_csStatus : decode (.command [0x54, 0x00, 0x00, 0x00, 0x01]) = .ok .csStatus := by decide
theorem test_decode_csReset : decode (.command [0x5F]) = .ok .csReset := by decide
theorem test_decode_decoders :
    decode (.decoder 0b010 3) = .ok (.decPbN 3) ∧ decode (.decoder 0b011 3) = .ok (.decPbS 3) ∧
    decode (.decoder 0b100 3) = .ok (.decP4N 3) ∧ decode (.decoder 0b101 3) = .ok (.decP4S 3) ∧
    decode (.decoder 0b110 3) = .ok (.decPfN 3) ∧ decode (.decoder 0b111 3) = .ok (.decPfS 3) := by decide
theorem test_decode_rejects :
    decode (.decoder 0b001 0) = .error (.noDecoder 0b001) ∧ decode (.command [0x99, 0x51]) = .error (.unknownOp 0x99) ∧
    decode (.command [0x51, 0x51]) = .error .overlong ∧ decode (.command [0x53, 0x00, 0x02, 0xAA]) = .error .incomplete ∧
    decode (.command [0x40, 0x00, 0x00, 0x00]) = .error .incomplete ∧ decode (.command []) = .error .incomplete := by decide

/-! ### Opcode-table words: byte 0 in bits 7:0, or a 40-bit row as the table writes it (log 13) -/

theorem test_table_words :
    decodeTableWord 8 0x5F = some .csReset ∧ decodeTableWord 24 0x53 = some (.csFrame []) ∧
    decodeTableWord 24 0x020020 = some (.rbWrite [0, 0]) ∧
    decodeTableWord 40 0xD204110150 = some (.csCfg 0x011104D2) ∧ decodeTableWord 40 0x50011104D2 = some (.csCfg 0x011104D2) ∧
    decodeTableWord 40 0x5400000001 = some .csStatus ∧ decodeTableWord 8 0x54 = some (.csRdreg 0) ∧
    decodeTableWord 8 0b110 = some (.decPfN 0) ∧ decodeTableWord 3 0b001 = none ∧ decodeTableWord 8 0x99 = none := by decide

theorem test_table_step :
    respOf (step (State.reset.withFetchWord 40 0x50011104D2)) = some .ok ∧
    respOf (step (State.reset.withFetchWord 8 0x52)) = some (.refused .notCapturing) ∧
    faultOf (step (State.reset.withFetchWord 8 0b010)) = some .readBeyondCount := by decide

/-! ### One step of each operation: vectors of 95_test_vectors.md -/

theorem test_hpParse_accepts : respOf (exec (.hpParse f1) (block 8 pb1 0 0 0 [])) = some (.accept 42 4) := by decide +kernel -- V-HP-1
theorem test_hpParse_short_length : -- V-HP-22
    respOf (exec (.hpParse ((f1.set 38 0).set 39 0)) (block 8 pb1 0 0 0 [])) = some .na := by decide +kernel
theorem test_rbWrite_wraps : -- V-RB-2
    (stateOf (exec (.rbWrite [0xB0, 0xB1, 0xB2, 0xB3, 0xB4]) (block 8 pb1 6 6 0 []))).map (fun t => (t.wr, t.count, t.mem))
      = some (3, 5, [(0, 0xB2), (1, 0xB3), (2, 0xB4), (6, 0xB0), (7, 0xB1)]) := by decide
theorem test_rbWrite_saturates : -- V-RB-12
    cursors (exec (.rbWrite [0]) { block 8 pb1 1 1 8 [] with ovf := 0xFFFFFFFF }) = some (1, 1, 8, 0xFFFFFFFF) := by decide
theorem test_rbAvail : respOf (exec .rbAvail (block 8 pb1 2 6 4 [])) = some (.word 4) := by decide -- V-RB-11
theorem test_rbOvf : respOf (exec .rbOvf { block 8 pb1 2 6 4 [] with ovf := 7 }) = some (.word 7) := by decide -- V-RB-11
theorem test_rbConsume_wraps : cursors (exec (.rbConsume 4) (block 8 pb1 2 6 4 [])) = some (2, 2, 0, 0) := by decide -- V-RB-8
theorem test_rbConsume_beyond : -- V-RB-10
    faultOf (exec (.rbConsume 5) (block 8 pb1 2 6 4 [])) = some .consumeBeyondCount := by decide
theorem test_dmxDecode_channels : -- V-DMX-1
    (stateOf (exec (.dmxDecode 2) (holding 16 0x022104D2 [0x01, 0x02, 0x7F, 0x80, 0xFF, 0x00, 0x10, 0xF0, 0x55]))).map
      (fun t => (outGet t.out 0 0, outGet t.out 1 0, outGet t.out 0 1, outGet t.out 1 1, t.rd, t.count))
      = some (some ⟨0x40000000, 0x3F800000⟩, some ⟨0xC3000000, 0x42FE0000⟩, some ⟨0x00000000, 0xBF800000⟩,
          some ⟨0xC1800000, 0x41800000⟩, 8, 1) := by decide
theorem test_dmxDecode_split_item : -- V-DMX-6
    (stateOf (exec (.dmxDecode 1) (block 4 pb1 1 3 2 [(0, 0x22), (3, 0x11)]))).map (fun t => (outGet t.out 0 0, t.rd, t.count))
      = some (some ⟨0x42080000, 0x41880000⟩, 1, 0) := by decide
theorem test_caProduce_whole_groups : -- V-CA-5b
    (stateOf (exec (.caProduce 3) (holding 8 0x022104D2 [0, 0, 0, 0, 0, 0, 0]))).map (fun t => (t.resp, t.count))
      = some (.word 1, 3) := by decide
theorem test_caProduce_leaves_rest : -- V-CA-12: an element beyond `produced` keeps what the host left
    (stateOf (exec (.caProduce 4) { holding 8 pb1 [1, 2, 3, 4] with out := [(outKey 0 2, ⟨7, 9⟩)] })).map
      (fun t => (t.resp, outGet t.out 0 0, outGet t.out 0 1, outGet t.out 0 2))
      = some (.word 2, some ⟨0x40000000, 0x3F800000⟩, some ⟨0x40800000, 0x40400000⟩, some ⟨7, 9⟩) := by decide
theorem test_csCfg_ok : -- V-CS-1
    (stateOf (exec (.csCfg 0x011104D2) (fresh 8))).map (fun t => (t.resp, t.cfgr, statusWord t))
      = some (.ok, 0x011104D2, 0x0A) := by decide
theorem test_csCfg_keeps_buffer : -- V-CS-7
    (stateOf (exec (.csCfg 0x000004D2) { block 8 pb1 5 0 5 [] with ovf := 3 })).map
      (fun t => (t.resp, t.configured, t.cfgr, t.count, t.ovf))
      = some (.configurationError .unknownFormat, false, pb1, 5, 3) := by decide
theorem test_csStart_ok : -- V-CS-12
    (stateOf (exec .csStart (block 8 pb1 0 0 0 []))).map (fun t => (t.resp, t.session)) = some (.ok, .capturing) := by decide
theorem test_csStart_bind : -- V-CS-11
    (stateOf (exec .csStart { block 8 pb1 0 0 0 [] with startEnv := .bindFail })).map (fun t => (t.resp, t.session))
      = some (.startupError .socketBind, .idle) := by decide
theorem test_csStop_ok : -- V-CS-15
    (stateOf (exec .csStop (capturing (holding 8 pb1 [1, 2, 3, 4])))).map (fun t => (t.resp, t.session, t.count))
      = some (.ok, .idle, 4) := by decide
theorem test_csStop_join : -- V-CS-16
    (stateOf (exec .csStop { capturing (holding 8 pb1 [1, 2, 3, 4]) with stopEnv := .joinFail })).map
      (fun t => (t.resp, t.session, t.faulted)) = some (.shutdownError, .capturing, true) := by decide
theorem test_csFrame_stores : -- V-CS-18
    (stateOf (exec (.csFrame f1) (capturing (block 8 pb1 0 0 0 [])))).map (fun t => (t.count, t.mem))
      = some (4, [(0, 1), (1, 2), (2, 3), (3, 4)]) := by decide
theorem test_csFrame_dropped : -- V-CS-19
    cursors (exec (.csFrame f1) (capturing (block 8 pb1 0 0 8 []))) = some (0, 0, 8, 1) := by decide
theorem test_csRdreg : -- V-CS-22
    (List.range 7).map (fun n => respOf (exec (.csRdreg (BitVec.ofNat 32 n)) (fresh 8)))
      = [0, 8, 0, 0, 8, 8, 0].map (fun v => some (.word v)) := by decide
theorem test_csStatus_full_faulted : -- P4 step 18
    respOf (exec .csStatus { capturing (block 8 pb1 4 4 8 []) with faulted := true }) = some (.word 0x17) := by decide
theorem test_csReset : -- V-CS-23
    (stateOf (exec .csReset { capturing (holding 8 pb1 [1, 2]) with faulted := true })).map
      (fun t => (statusWord t, t.cfgr, t.wr, t.mem)) = some (0x08, 0, 0, []) := by decide
theorem test_decPbN : -- V-DEC-3
    respOf (exec (.decPbN 0) (holding 8 pb1 [0x7F, 0x80])) = some (.sample ⟨0xC3000000, 0x42FE0000⟩) := by decide
theorem test_decPbS : -- V-DEC-4
    respOf (exec (.decPbS 0) (holding 8 pb1 [0x7F, 0x80])) = some (.sample ⟨0x42FE0000, 0xC3000000⟩) := by decide
theorem test_decP4N : -- V-DEC-5
    respOf (exec (.decP4N 0) (holding 8 pb1 [0x8F])) = some (.sample ⟨0xBF800000, 0xC1700000⟩) := by decide
theorem test_decP4S : -- V-DEC-6
    respOf (exec (.decP4S 0) (holding 8 pb1 [0x8F])) = some (.sample ⟨0xC1700000, 0xBF800000⟩) := by decide
theorem test_decPfN : -- V-DEC-11
    respOf (exec (.decPfN 0) (holding 8 pb1 [0x01, 0x00, 0xC0, 0x7F, 0x00, 0x00, 0x80, 0xFF]))
      = some (.sample ⟨0x7FC00001, 0xFF800000⟩) := by decide
theorem test_decPfS : -- V-DEC-10
    respOf (exec (.decPfS 0) (holding 8 pb1 [0x00, 0x00, 0xC0, 0x3F, 0x00, 0x00, 0x10, 0xC0]))
      = some (.sample ⟨0xC0100000, 0x3FC00000⟩) := by decide
theorem test_selected_PbS : -- V-DMX-2
    (stateOf (exec (.dmxDecode 2) (holding 16 0x022504D2 [0x01, 0x02, 0x7F, 0x80, 0xFF, 0x00, 0x10, 0xF0, 0x55]))).map
      (fun t => (outGet t.out 0 0, outGet t.out 1 0, t.count))
      = some (some ⟨0x3F800000, 0x40000000⟩, some ⟨0x42FE0000, 0xC3000000⟩, 1) := by decide
theorem test_selected_P4N : -- V-DMX-3
    (stateOf (exec (.dmxDecode 2) (holding 8 0x033204D2 [0x10, 0x32, 0x54, 0x76, 0x98, 0xBA]))).map
      (fun t => (outGet t.out 0 0, outGet t.out 0 1, outGet t.out 2 0, t.rd, t.count))
      = some (some ⟨0x3F800000, 0x40400000⟩, some ⟨0x41500000, 0x41700000⟩, some ⟨0x41100000, 0x41300000⟩, 6, 0) := by decide
theorem test_selected_P4S : -- V-CA-11
    (stateOf (exec (.caProduce 2) (holding 8 0x011604D2 [0x8F, 0x07]))).map
      (fun t => (t.resp, outGet t.out 0 0, outGet t.out 0 1, t.count))
      = some (.word 2, some ⟨0xC1700000, 0xBF800000⟩, some ⟨0x3F800000, 0x41700000⟩, 0) := by decide
theorem test_selected_PfN : -- V-CA-6 with the bytes of V-DEC-9
    (stateOf (exec (.caProduce 5) (holding 16 0x011304D2 [0x00, 0x00, 0xC0, 0x3F, 0x00, 0x00, 0x10, 0xC0, 1, 2, 3]))).map
      (fun t => (t.resp, outGet t.out 0 0, t.count)) = some (.word 1, some ⟨0x3FC00000, 0xC0100000⟩, 3) := by decide
theorem test_selected_PfS : -- V-CA-6 with the bytes of V-DEC-10
    (stateOf (exec (.caProduce 5) (holding 16 0x011704D2 [0x00, 0x00, 0xC0, 0x3F, 0x00, 0x00, 0x10, 0xC0, 1, 2, 3]))).map
      (fun t => (t.resp, outGet t.out 0 0, t.count)) = some (.word 1, some ⟨0xC0100000, 0x3FC00000⟩, 3) := by decide
theorem test_unknown_op : -- V-CS-24
    respOf (step (issued (fresh 8) [0x99])) = some (.refused .unknownOp) := by decide

/-! ### Roles and the end of a run -/

theorem test_port_column : -- R112
    ports (.csFrame []) = [.producer] ∧ ports (.caProduce 1) = [.consumer] ∧ ports .rbAvail = [.consumer, .owner] ∧
    ports .rbOvf = [.owner] ∧ ports (.csCfg 0) = [.owner] ∧ ports (.rbConsume 1) = [] := by decide
theorem test_may_issue : -- R21, R163
    (mayIssue .producer .rbAvail && mayIssue .producer .rbOvf && mayIssue .consumer .rbOvf && mayIssue .owner .rbAvail
      && mayIssue .testBench (.rbConsume 1)) = true ∧
    (mayIssue .owner (.caProduce 1) || mayIssue .consumer (.csFrame []) || mayIssue .producer .csStop
      || mayIssue .owner (.rbConsume 1) || mayIssue .consumer (.decPbN 0)) = false := by decide
theorem test_internal_has_no_port : -- R21, R112: RB.CONSUME from the consumer's port, and the same from a test bench
    (match step { holding 8 pb1 [1, 2] with queue := [requestOf .consumer [0x22, 0, 0, 0, 1]] } with
      | .refused r => some r
      | _ => none) = some .internalOperation ∧
    cursors (step { holding 8 pb1 [1, 2] with queue := [requestOf .testBench [0x22, 0, 0, 0, 1]] }) = some (2, 1, 1, 0) := by decide

/-- One byte buffered, less than a group; the consumer asks for a sample and the owner stops. -/
def ending : State :=
  { capturing (holding 8 pb1 [5]) with queue := [requestOf .consumer [0x40, 0, 0, 0, 1], requestOf .owner [0x52]] }

theorem test_run_over : (runEvents 2 ending).map (fun r => decide (runOver r.2 r.1)) = some true := by decide
theorem test_faulted_run_not_over : -- R238, R282: as ending, but faulted; and before the CS.STOP
    (runEvents 2 { ending with faulted := true }).map (fun r => decide (runOver r.2 r.1)) = some false ∧
    (runEvents 1 ending).map (fun r => decide (runOver r.2 r.1)) = some false := by decide

/-! ### Witnesses: a state and operands that meet all hypotheses of each statement -/

theorem inv_fresh {c : Nat} (h : 1 ≤ c) : Inv (fresh c) :=
  inv_of _ ⟨h, Nat.zero_le _, h, h, (Nat.zero_mod c).symm, List.Pairwise.nil, fun _ he => absurd he List.not_mem_nil,
    fun _ hk => absurd hk (Nat.not_lt_zero _), by change 0#32 &&& cfgrMask = 0#32; decide, fun hc => absurd hc Bool.false_ne_true, nofun, List.Pairwise.nil⟩

/-- A block of capacity 8 that holds four bytes around the buffer's end, Capturing. -/
def around : State := capturing (block 8 pb1 2 6 4 [(0, 3), (1, 4), (6, 1), (7, 2)])

theorem inv_around : Inv around := inv_of _ (by decide)
theorem inv_holding : Inv (holding 8 pb1 [1, 2, 3, 4, 5]) := inv_of _ (by decide)
theorem inv_full : Inv (capturing (holding 4 pb1 [1, 2, 3, 4])) := inv_of _ (by decide)

theorem witness_DecodeInvertsEncode :
    wellFormed (.hpParse f1) = true ∧ wellFormed (.csRdreg 0) = true ∧ wellFormed (.decPfS 9) = true := by decide
theorem witness_EncodeInvertsDecode :
    decode (.command [0x54, 0x00, 0x00, 0x00, 0x01]) = .ok .csStatus ∧ decode (.decoder 0b111 0) = .ok (.decPfS 0) := by decide
theorem witness_StepRunsDecodedOperation :
    (issued (fresh 8) [0x23]).queue = [request (.command [0x23])] ∧ decode (request (.command [0x23])).wire = .ok .rbOvf ∧
      wellFormed .rbOvf = true ∧ isExternal .rbOvf = true ∧
    ending.queue = requestOf .consumer [0x40, 0, 0, 0, 1] :: [requestOf .owner [0x52]] ∧
      decode (requestOf .owner [0x52]).wire = .ok .csStop ∧ wellFormed .csStop = true ∧ isExternal .csStop = true ∧
    decode (requestOf .owner [0x22, 0, 0, 0, 1]).wire = .ok (.rbConsume 1) ∧ (requestOf .owner []).agent ≠ .testBench ∧
      wellFormed (.rbConsume 1) = true ∧ isExternal (.rbConsume 1) = false := by decide
theorem witness_PlacedTableWordRuns : decodeTableWord 40 0x4000000002 = some (.caProduce 2) := by decide
theorem witness_BlockWaitsWithoutWholeCommand :
    (fresh 8).queue = [] ∧
    (issued (fresh 8) [0x53, 0x00, 0x01]).queue = [request (.command [0x53, 0x00, 0x01])] ∧ ([] : List Byte).length < 0 * 256 + 1 ∧
    (issued (fresh 8) [0x10, 0x01, 0x00, 0xAA]).queue = [request (.command [0x10, 0x01, 0x00, 0xAA])] ∧
      ([0xAA] : List Byte).length < 1 * 256 + 0 := by decide
theorem witness_UnknownOpIsRefused :
    (issued (fresh 8) [0x99, 0x51]).queue = [request (.command [0x99, 0x51])] ∧
    ∀ op ∈ [0x0F, 0x11, 0x1F, 0x24, 0x2F, 0x31, 0x41, 0x4F, 0x55, 0x5E, 0x60, 0xFF, 0x00],
      op ∉ [0x10, 0x20, 0x21, 0x22, 0x23, 0x30, 0x40, 0x50, 0x51, 0x52, 0x53, 0x54, 0x5F] := by decide
theorem witness_StepKeepsInvariant :
    Inv { around with queue := [request (.command [0x51])] } ∧ queueWf { around with queue := [request (.command [0x51])] } ∧
      (stateOf (step { around with queue := [request (.command [0x51])] })).isSome = true :=
  ⟨inv_of _ (by decide), by intro r hr o ho; simp at hr; subst hr; simp [request] at ho, by decide⟩
theorem witness_ExternalOperationsAlwaysAnswer : Inv around ∧ isExternal (.caProduce 7) = true := ⟨inv_around, rfl⟩
theorem inv_ending : Inv ending := inv_of _ (by decide)
theorem queueWf_ending : queueWf ending := by
  intro r hr o ho
  simp only [ending, List.mem_cons, List.not_mem_nil, or_false] at hr
  rcases hr with rfl | rfl <;> simp [requestOf, request] at ho
theorem witness_PortRequestsNeverFault :
    Inv ending ∧ queueWf ending ∧ ending.queue = requestOf .consumer [0x40, 0, 0, 0, 1] :: [requestOf .owner [0x52]] ∧
      (requestOf .consumer [0x40, 0, 0, 0, 1]).agent ≠ .testBench := ⟨inv_ending, queueWf_ending, rfl, by decide⟩
theorem witness_ParseAcceptsExactlyGoodFrames :
    acceptable ((block 8 pb1 0 0 0 []).cfgr.toNat % 65536) f1 ∧ ¬ acceptable ((fresh 8).cfgr.toNat % 65536) f1 ∧
      ¬ acceptable 1234 (f1.take 45) := by decide
theorem witness_ParseReadsCapturedBytesOnly :
    (f1.take 13).length < 14 ∧ (f1.take 14).length < 15 ∧ (f1.take 41).length < hdrUdp (f1.take 41) + 8 := by decide
theorem witness_AcceptedPayloadLiesInFrame : parseFrame 1234 f1 = some (42, 4) := by decide +kernel
theorem witness_WriteThatFitsIsStored : -- a write of exactly the free space, around the buffer's end
    (block 8 pb1 6 3 3 []).count ≤ (block 8 pb1 6 3 3 []).cap ∧
      ([1, 2, 3, 4, 5] : List Byte).length ≤ (block 8 pb1 6 3 3 []).cap - (block 8 pb1 6 3 3 []).count ∧ Inv around :=
  ⟨by decide, by decide, inv_around⟩
theorem witness_WriteThatOverflowsIsCounted : -- one byte more than the free space
    (block 8 pb1 6 3 3 []).cap - (block 8 pb1 6 3 3 []).count < ([1, 2, 3, 4, 5, 6] : List Byte).length := by decide
theorem witness_WriteCornerCases :
    Inv around ∧ ([1, 2, 3, 4] : List Byte).length = around.cap - around.count ∧
      around.cap < ([1, 2, 3, 4, 5, 6, 7, 8, 9] : List Byte).length := ⟨inv_around, by decide, by decide⟩
theorem witness_StoreIsTwoPartCopy : 7 < 8 ∧ ([1, 2, 3, 4, 5, 6, 7, 8] : List Byte).length ≤ 8 := by decide
theorem witness_AvailAndOvfAnswerCounters : around.count < 2 ^ 32 ∧ ({ around with count := 2 ^ 32 - 1 } : State).count < 2 ^ 32 := by
  decide
theorem witness_ConsumeMovesReadCursor : (4 : Word).toNat ≤ around.count ∧ (0 : Word).toNat ≤ around.count := by decide
theorem witness_ConsumeBeyondCountFaults : around.count < (5 : Word).toNat := by decide
theorem witness_RingBufferRefinesByteQueue : Inv around ∧ (stateOf (exec (.csFrame f1) around)).map (·.count) = some 8 :=
  ⟨inv_around, by decide⟩
theorem witness_BytesReadBackEqualBytesWritten :
    Inv (fresh 8) ∧ (fresh 8).count = 0 ∧
      (runLedger [.rbWrite [1, 2, 3, 4, 5, 6], .rbConsume 5, .rbWrite [7, 8, 9, 10]] (fresh 8) ⟨[], 0⟩).map
        (fun r => (r.2.written.length, r.2.consumed, r.1.wr)) = some (10, 5, 2) := ⟨inv_fresh (by decide), rfl, by decide⟩
theorem witness_PackedByteDecodes : 2 + 2 ≤ around.count := by decide
theorem witness_Packed4BitDecodes :
    3 + 1 ≤ around.count ∧ streamByte (holding 8 pb1 [0x8F]) 0 = (0x8 : BitVec 4) ++ (0xF : BitVec 4) := by decide
theorem witness_PackedFloatDecodes : 0 + 8 ≤ (holding 8 pb1 [0, 0, 0xC0, 0x3F, 0, 0, 0x10, 0xC0]).count := by decide
theorem witness_IntegerPatternsAreExact : -128 ≤ (-128 : Int) ∧ (-128 : Int) ≤ 127 ∧ -128 ≤ (127 : Int) ∧ (127 : Int) ≤ 127 := by decide
theorem witness_DecoderBeyondCountFaults : around.count < 3 + 2 ∧ around.count < 4 + 1 ∧ around.count < 0 + 8 := by decide
theorem witness_PackedFloatRoundTrip : Inv (fresh 8) ∧ (fresh 8).count = 0 ∧ 8 ≤ (fresh 8).cap :=
  ⟨inv_fresh (by decide), rfl, by decide⟩
theorem witness_DecodeFillsOutputAndConsumes :
    1 = around.cfgr.toNat / 2 ^ 16 % 4 ∧ 0 = around.cfgr.toNat / 2 ^ 18 % 2 ∧ 1 = around.cfgr.toNat / 2 ^ 20 % 8 ∧
      2 = (if 1 = 1 then 2 else if 1 = 2 then 1 else 8) ∧ 1 ≠ 0 ∧ (2 : Word).toNat * (2 * 1) ≤ around.count := by decide
theorem witness_DecodeBeyondCountFaults :
    0 = (fresh 8).cfgr.toNat / 2 ^ 16 % 4 ∧ 0 = (fresh 8).cfgr.toNat / 2 ^ 20 % 8 ∧
      8 = (if 0 = 1 then 2 else if 0 = 2 then 1 else 8) ∧
    1 = around.cfgr.toNat / 2 ^ 16 % 4 ∧ 1 = around.cfgr.toNat / 2 ^ 20 % 8 ∧ 2 = (if 1 = 1 then 2 else if 1 = 2 then 1 else 8) ∧
      1 ≠ 0 ∧ around.count < (3 : Word).toNat * (2 * 1) := by decide
theorem witness_ProduceDeliversWholeGroups :
    1 = around.cfgr.toNat / 2 ^ 16 % 4 ∧ 0 = around.cfgr.toNat / 2 ^ 18 % 2 ∧ 1 = around.cfgr.toNat / 2 ^ 20 % 8 ∧
      2 = (if 1 = 1 then 2 else if 1 = 2 then 1 else 8) ∧ 2 = 2 * 1 ∧ around.configured = true ∧ 1 ≠ 0 ∧ 1 ≤ 2 ∧
      2 = min (9 : Word).toNat (around.count / 2) := by decide
theorem witness_ProduceWithNothingAnswersZero :
    1 = (block 8 pb1 0 0 0 []).cfgr.toNat / 2 ^ 16 % 4 ∧ 1 = (block 8 pb1 0 0 0 []).cfgr.toNat / 2 ^ 20 % 8 ∧
      2 = (if 1 = 1 then 2 else if 1 = 2 then 1 else 8) ∧
      Inv (block 8 pb1 0 0 0 []) ∧ (block 8 pb1 0 0 0 []).configured = true ∧ (block 8 pb1 0 0 0 []).count < 2 * 1 ∧
    1 = around.cfgr.toNat / 2 ^ 16 % 4 ∧ 1 = around.cfgr.toNat / 2 ^ 20 % 8 ∧
      Inv around ∧ around.configured = true ∧ (0 : Word) = 0 :=
  ⟨by decide, by decide, rfl, inv_of _ (by decide), rfl, by decide, by decide, by decide, inv_around, rfl, rfl⟩
theorem witness_ProduceUnconfiguredIsRefused : (fresh 8).configured = false := by decide
theorem witness_ProduceNeverOverReads : -- V-SRC-6
    1 = (holding 8 pb1 [1, 2, 3, 4, 5]).cfgr.toNat / 2 ^ 16 % 4 ∧ 1 = (holding 8 pb1 [1, 2, 3, 4, 5]).cfgr.toNat / 2 ^ 20 % 8 ∧
    2 = (if 1 = 1 then 2 else if 1 = 2 then 1 else 8) ∧ 2 = 2 * 1 ∧
    Inv (holding 8 pb1 [1, 2, 3, 4, 5]) ∧ (holding 8 pb1 [1, 2, 3, 4, 5]).configured = true ∧
      2 = (holding 8 pb1 [1, 2, 3, 4, 5]).count / 2 ∧ 2 < (4 : Word).toNat :=
  ⟨by decide, by decide, rfl, rfl, inv_holding, rfl, by decide, by decide⟩
theorem witness_ProduceIgnoresSession : (stateOf (exec (.caProduce 1) around)).isSome = true := by decide
theorem witness_ConfigureFollowsRule :
    1 = pb1.toNat / 2 ^ 16 % 4 ∧ 1 = pb1.toNat / 2 ^ 20 % 8 ∧ 1 = pb1.toNat / 2 ^ 24 % 8 := by decide
theorem witness_FrameIsParseThenWrite :
    (holding 8 pb1 [1]).session = .idle ∧ around.session = .capturing ∧
      ¬ acceptable (around.cfgr.toNat % 65536) (f1.set 37 0xD3) ∧ acceptable (around.cfgr.toNat % 65536) f1 := by decide
theorem witness_FrameStoresPayloadBytes : -- a payload of exactly the free space
    around.session = .capturing ∧ acceptable (around.cfgr.toNat % 65536) f1 ∧ 4 = hdrUlen f1 - 8 ∧ around.count ≤ around.cap ∧
      4 ≤ around.cap - around.count := by decide
theorem witness_OtherPortsNeverEnterBuffer :
    hdrPort (f1.set 37 0xD3) ≠ around.cfgr.toNat % 65536 ∧ respOf (exec (.hpParse (f1.take 45)) around) = some .na := by
  decide +kernel
theorem witness_RegisterReadsFollowMap : around.count < 2 ^ 32 ∧ around.cap < 2 ^ 32 ∧ 5 < (6 : Word).toNat := by decide
theorem witness_OnlyWritesStoreBytes :
    (stateOf (exec (.caProduce 1) around)).isSome = true ∧ canWriteRing (.caProduce 1) = false ∧
      Instr.caProduce 1 ≠ .csReset ∧ ∀ arg, Instr.caProduce 1 ≠ .csCfg arg := ⟨by decide, rfl, nofun, nofun⟩
theorem witness_ReadsHaveNoSideEffect :
    isRead (.decPbN 0) = true ∧ (stateOf (exec (.decPbN 0) around)).isSome = true := by decide
theorem witness_ConfigurationChangesOnlyWhenIdle :
    (stateOf (exec (.csCfg pb1) (fresh 8))).map (·.cfgr) = some pb1 ∧ pb1 ≠ (fresh 8).cfgr := by decide
theorem witness_LifecycleFollowsTable :
    (stateOf (exec .csStart (holding 8 pb1 []))).map (fun t => (t.session, t.configured)) = some (.capturing, true) := by decide
theorem witness_FaultFlagIsSticky :
    (stateOf (exec .csStop { around with stopEnv := .joinFail })).map (·.faulted) = some true := by decide
theorem witness_OverflowCounterCountsRejections : -- a payload one byte too long, one of exactly the free space, and none
    offered (.csFrame f1) (capturing (block 8 pb1 5 0 5 [])) = some [1, 2, 3, 4] ∧ 8 - 5 < ([1, 2, 3, 4] : List Byte).length ∧
    (stateOf (exec (.csFrame f1) (capturing (block 8 pb1 5 0 5 [])))).map (·.ovf) = some 1 ∧
    offered (.rbWrite [1, 2, 3, 4]) around = some [1, 2, 3, 4] ∧ ([1, 2, 3, 4] : List Byte).length ≤ around.cap - around.count ∧
    (stateOf (exec (.rbWrite [1, 2, 3, 4]) around)).isSome = true ∧
    (respOf (exec (.csCfg pb1) (fresh 8)) = some .ok) ∧ offered (.csFrame f1) (holding 8 pb1 [1]) = none ∧
    (stateOf (exec (.csFrame f1) (holding 8 pb1 [1]))).isSome = true := by decide
theorem witness_EachRoleChangesItsOwnPart :
    mayIssue .producer (.csFrame f1) = true ∧ (stateOf (exec (.csFrame f1) around)).isSome = true ∧
    mayIssue .consumer (.caProduce 1) = true ∧ (stateOf (exec (.caProduce 1) around)).isSome = true ∧
    mayIssue .owner .csReset = true ∧ (stateOf (exec .csReset around)).isSome = true := by decide
theorem witness_EndedRunIsQuiet :
    Inv ending ∧ queueWf ending ∧ (runEvents 2 ending).map (fun r => decide (runOver r.2 r.1 ∧ r.1.configured = true)) = some true :=
  ⟨inv_ending, queueWf_ending, by decide⟩
theorem witness_CapacityIsFixed : (stateOf (step (issued around [0x5F]))).map (·.cap) = some 8 := by decide
theorem witness_OccupancyMovesOneWayPerRole :
    (stateOf (exec (.csFrame f1) around)).map (·.count) = some 8 ∧ (stateOf (exec (.caProduce 1) around)).map (·.count) = some 2 ∧
      (stateOf (exec .rbAvail around)).map (·.count) = some 4 := by decide
theorem witness_NoWritesAfterStop :
    (issued (holding 8 pb1 [1, 2, 3, 4]) ([0x53, 0x00, 0x2E] ++ f1)).session = .idle ∧
    (∀ r, r ∈ (issued (holding 8 pb1 [1, 2, 3, 4]) ([0x53, 0x00, 0x2E] ++ f1)).queue → noStartNoWrite r) ∧
    (stateOf (step (issued (holding 8 pb1 [1, 2, 3, 4]) ([0x53, 0x00, 0x2E] ++ f1)))).map (·.count) = some 4 := by
  refine ⟨rfl, fun r hr i hi => ?_, by decide⟩
  obtain rfl : r = request (.command ([0x53, 0x00, 0x2E] ++ f1)) := by simpa [issued] using hr
  have hd : decode (.command ([0x53, 0x00, 0x2E] ++ f1)) = .ok (.csFrame f1) := test_decode_csFrame
  simp only [request, hd, Except.ok.injEq] at hi
  subst hi
  exact ⟨nofun, nofun⟩
theorem witness_DecodeAndFrameCommute :
    1 = around.cfgr.toNat / 2 ^ 16 % 4 ∧ 1 = around.cfgr.toNat / 2 ^ 20 % 8 ∧ 2 = (if 1 = 1 then 2 else if 1 = 2 then 1 else 8) ∧
      Inv around ∧ 1 ≠ 0 ∧ around.session = .capturing ∧ acceptable (around.cfgr.toNat % 65536) f1 ∧
      hdrUlen f1 - 8 ≤ around.cap - around.count ∧ (2 : Word).toNat * (2 * 1) ≤ around.count :=
  ⟨by decide, by decide, rfl, inv_around, by decide, rfl, by decide, by decide, by decide⟩

end Sys2Proof.Tests
end

section
/-! PROOFS. The scope family: what an integer's binary32 pattern stands for, and what no step changes. -/

namespace Sys2Proof.Machine

/-! ### Binary32 patterns (R105) -/

section
variable (neg : Bool) (e : BitVec 8) (frac : BitVec 23)

/-- A binary32 pattern put together from its three fields (R105). -/
def f32Pack : Word := BitVec.ofBool neg ++ e ++ frac

@[simp] theorem f32Pack_sign : (f32Pack neg e frac).extractLsb' 31 1 = BitVec.ofBool neg := by
  unfold f32Pack
  rw [BitVec.extractLsb'_append_eq_of_le (by decide)]
  exact BitVec.extractLsb'_append_eq_left

@[simp] theorem f32Pack_exponent : (f32Pack neg e frac).extractLsb' 23 8 = e := by
  unfold f32Pack
  rw [BitVec.extractLsb'_append_eq_of_le (by decide)]
  exact BitVec.extractLsb'_append_eq_right

@[simp] theorem f32Pack_fraction : (f32Pack neg e frac).extractLsb' 0 23 = frac :=
  BitVec.extractLsb'_append_eq_right

/-- The number of a normal pattern, field by field: sign, significand with its implicit leading 1, exponent of bias 127. -/
theorem f32Value_f32Pack (he : e ≠ 0#8) :
    f32Value (f32Pack neg e frac) =
      (if neg then -1 else 1) * (2 ^ 23 + frac.toNat : ℚ) * 2 ^ e.toNat / 2 ^ 150 := by
  have he0 : e.toNat ≠ 0 := fun h => he (BitVec.eq_of_toNat_eq h)
  cases neg <;> simp [f32Value, he0]

end

/-- `f32_of_int` of an integer other than 0: its sign, its magnitude's leading bit as the exponent, the rest as the fraction. -/
theorem f32OfInt_eq_f32Pack {z : Int} (hz : z ≠ 0) :
    f32OfInt z = f32Pack (z < 0) (BitVec.ofNat 8 (127 + z.natAbs.log2))
      (BitVec.ofNat 23 ((z.natAbs - 2 ^ z.natAbs.log2) * 2 ^ (23 - z.natAbs.log2))) := by
  simp only [f32OfInt, if_neg hz, f32Pack]

/-- The magnitude shifted up to 24 bits, its leading bit taken off, fits the 23 bits of the fraction. -/
theorem shifted_fraction {m : Nat} (h0 : m ≠ 0) (h : m < 2 ^ 24) :
    (m - 2 ^ m.log2) * 2 ^ (23 - m.log2) < 2 ^ 23 ∧
      2 ^ 23 + (m - 2 ^ m.log2) * 2 ^ (23 - m.log2) = m * 2 ^ (23 - m.log2) := by
  have hlo : 2 ^ m.log2 ≤ m := Nat.log2_self_le h0
  have hhi : m < 2 ^ (m.log2 + 1) := Nat.lt_log2_self
  have he : m.log2 ≤ 23 := Nat.le_of_lt_succ ((Nat.log2_lt h0).2 h)
  have hp : 2 ^ m.log2 * 2 ^ (23 - m.log2) = 2 ^ 23 := by rw [← pow_add, Nat.add_sub_cancel' he]
  constructor
  · calc (m - 2 ^ m.log2) * 2 ^ (23 - m.log2) < 2 ^ m.log2 * 2 ^ (23 - m.log2) :=
          Nat.mul_lt_mul_of_pos_right (by omega) (by positivity)
      _ = 2 ^ 23 := hp
  · rw [← hp, ← Nat.add_mul, Nat.add_sub_cancel' hlo]

/-- A number is its magnitude under its sign. -/
theorem sign_mul_natAbs (z : Int) : (if z < 0 then -1 else 1) * (z.natAbs : ℚ) = z := by
  rw [Nat.cast_natAbs]
  push_cast
  split
  · next h => rw [abs_of_neg (by exact_mod_cast h)]; ring
  · next h => rw [abs_of_nonneg (by exact_mod_cast not_lt.1 h), one_mul]

/-- `f32_of_int` is exact on every integer of at most 24 bits (R12, R105): the shift that fills the significand and the
exponent cancel. -/
theorem f32Value_f32OfInt {z : Int} (h : z.natAbs < 2 ^ 24) : f32Value (f32OfInt z) = z := by
  by_cases hz : z = 0
  · subst hz; simp [f32OfInt, f32Value]
  have h0 : z.natAbs ≠ 0 := Int.natAbs_ne_zero.2 hz
  have he : z.natAbs.log2 ≤ 23 := Nat.le_of_lt_succ ((Nat.log2_lt h0).2 h)
  obtain ⟨hfrac, hsig⟩ := shifted_fraction h0 h
  have hsigQ : (2 ^ 23 + ((z.natAbs - 2 ^ z.natAbs.log2) * 2 ^ (23 - z.natAbs.log2) : Nat) : ℚ)
      = z.natAbs * 2 ^ (23 - z.natAbs.log2) := by exact_mod_cast hsig
  have hexp : (BitVec.ofNat 8 (127 + z.natAbs.log2)).toNat = 127 + z.natAbs.log2 := by
    rw [BitVec.toNat_ofNat, Nat.mod_eq_of_lt (by omega)]
  have hne : BitVec.ofNat 8 (127 + z.natAbs.log2) ≠ 0#8 := fun h8 => by rw [h8, BitVec.toNat_zero] at hexp; omega
  rw [f32OfInt_eq_f32Pack hz, f32Value_f32Pack _ _ _ hne, hexp, BitVec.toNat_ofNat, Nat.mod_eq_of_lt hfrac, hsigQ]
  simp only [decide_eq_true_eq]
  calc (if z < 0 then -1 else 1 : ℚ) * (z.natAbs * 2 ^ (23 - z.natAbs.log2) : ℚ) * 2 ^ (127 + z.natAbs.log2) / 2 ^ 150
      = (if z < 0 then -1 else 1 : ℚ) * z.natAbs * 2 ^ (23 - z.natAbs.log2 + (127 + z.natAbs.log2)) / 2 ^ 150 := by
        rw [pow_add]; ring
    _ = (if z < 0 then -1 else 1 : ℚ) * z.natAbs := by
        rw [show 23 - z.natAbs.log2 + (127 + z.natAbs.log2) = 150 by omega, mul_div_cancel_right₀ _ (by positivity)]
    _ = z := sign_mul_natAbs z

/-! ### What an operation does to the state -/

/-- All that an operation can do to the state besides answering, with the condition under which it does it. -/
inductive Effect (s : State) : State → Prop where
  /-- a read, a refusal, or an error that leaves the state -/
  | unchanged : Effect s s
  /-- a payload longer than the free space, counted -/
  | overflow (bytes : List Byte) (hfull : s.cap - s.count < bytes.length) : Effect s s.bumpOvf
  /-- a payload that fits, taken -/
  | append (bytes : List Byte) (hfit : bytes.length ≤ s.cap - s.count) : Effect s (s.append bytes)
  /-- bytes consumed -/
  | consume (len : Nat) (hlen : len ≤ s.count) : Effect s (s.advance len)
  /-- samples decoded into the caller's arrays and their bytes consumed -/
  | decode (o : OutSpace) (len : Nat) (hlen : len ≤ s.count) (hwf : cellsWf s.out → cellsWf o) :
      Effect s ((s.withOut o).advance len)
  /-- a CS.CFG whose fields are rejected -/
  | unconfigure (hidle : s.session = .idle) : Effect s s.clearConfigured
  /-- a CS.CFG that succeeds -/
  | configure (arg : Word) (hidle : s.session = .idle) (hfmt : fmtField arg ≠ 0#2) (hch : badChannelCount arg = false) :
      Effect s (s.configure arg)
  /-- a CS.START that succeeds -/
  | start (hidle : s.session = .idle) (hcfg : s.configured = true) : Effect s (s.withSession .capturing)
  /-- a CS.STOP that succeeds -/
  | stop (hrun : s.session = .capturing) : Effect s (s.withSession .idle)
  /-- a CS.STOP whose thread does not join -/
  | fail (hrun : s.session = .capturing) : Effect s s.setFault
  /-- a CS.RESET -/
  | reset : Effect s s.resetBlock

theorem ringWrite_effect (s : State) (bytes : List Byte) : Effect s (ringWrite s bytes).1 := by
  rcases ringWrite_cases s bytes with ⟨hfull, e⟩ | ⟨hfit, e⟩ <;> rw [e]
  · exact .overflow bytes hfull
  · exact .append bytes hfit

theorem ringConsume_effect {s u : State} {len : Nat} (h : ringConsume s len = .ok u) : Effect s u := by
  rcases ringConsume_cases s len with ⟨_, e⟩ | ⟨hlen, e⟩ <;> rw [e] at h <;> cases h
  exact .consume len hlen

theorem demux_effect {s u : State} {n : Nat} (h : demux s n = .ok u) : Effect s u := by
  rcases demux_cases s n with ⟨_, e⟩ | ⟨_, _, e⟩ | ⟨_, hlen, o, e, _, _, hwf⟩ <;> rw [e] at h <;> cases h
  exact .decode o _ hlen hwf

/-- An operation that answers has one of the effects, and its response, and does nothing else. -/
theorem exec_effect {i : Instr} {s t : State} (h : exec i s = .next t) : ∃ u r, Effect s u ∧ t = u.answer r := by
  have item {x : Except Fault Sample} (hx : replyItem s x = .next t) : ∃ u r, Effect s u ∧ t = u.answer r := by
    obtain ⟨v, _, rfl⟩ := replyItem_next hx
    exact ⟨s, _, .unchanged, rfl⟩
  cases i with
  | hpParse _ | csRdreg _ => exact ⟨s, _, .unchanged, reply_next.1 h⟩
  | rbAvail | rbOvf | csStatus => exact ⟨s, _, .unchanged, reply_next.1 h⟩
  | decPbN _ | decPbS _ | decP4N _ | decP4S _ | decPfN _ | decPfS _ => exact item h
  | rbWrite bytes => exact ⟨_, _, ringWrite_effect s bytes, reply_next.1 h⟩
  | rbConsume len =>
    simp only [exec, execRbConsume] at h
    split at h
    · next u hu => exact ⟨u, _, ringConsume_effect hu, reply_next.1 h⟩
    · cases h
  | dmxDecode n =>
    simp only [exec, execDmxDecode] at h
    split at h
    · next u hu => exact ⟨u, _, demux_effect hu, reply_next.1 h⟩
    · cases h
  | caProduce requested =>
    simp only [exec] at h
    rcases execCaProduce_cases requested s with
      ⟨_, e⟩ | ⟨_, _, e⟩ | ⟨_, _, _, e⟩ | ⟨_, _, _, _, u, hu, e⟩ <;> rw [e] at h
    · exact ⟨s, _, .unchanged, raise_next.1 h⟩
    · cases h
    · exact ⟨s, _, .unchanged, reply_next.1 h⟩
    · exact ⟨u, _, demux_effect hu, reply_next.1 h⟩
  | csCfg arg =>
    simp only [exec] at h
    rcases execCsCfg_cases arg s with ⟨_, e⟩ | ⟨hs, _, e⟩ | ⟨hs, _, _, e⟩ | ⟨hs, hf, hb, e⟩ <;> rw [e] at h
    · exact ⟨s, _, .unchanged, raise_next.1 h⟩
    · exact ⟨_, _, .unconfigure hs, raise_next.1 h⟩
    · exact ⟨_, _, .unconfigure hs, raise_next.1 h⟩
    · exact ⟨_, _, .configure arg hs hf hb, reply_next.1 h⟩
  | csStart =>
    simp only [exec] at h
    rcases execCsStart_cases s with ⟨_, e⟩ | ⟨_, _, e⟩ | ⟨_, _, _, e⟩ | ⟨_, _, _, e⟩ | ⟨hc, hs, _, e⟩ <;> rw [e] at h
    · exact ⟨s, _, .unchanged, raise_next.1 h⟩
    · exact ⟨s, _, .unchanged, raise_next.1 h⟩
    · exact ⟨s, _, .unchanged, raise_next.1 h⟩
    · exact ⟨s, _, .unchanged, raise_next.1 h⟩
    · exact ⟨_, _, .start hs hc, reply_next.1 h⟩
  | csStop =>
    simp only [exec] at h
    rcases execCsStop_cases s with ⟨_, e⟩ | ⟨hs, _, e⟩ | ⟨hs, _, e⟩ <;> rw [e] at h
    · exact ⟨s, _, .unchanged, raise_next.1 h⟩
    · exact ⟨_, _, .fail hs, raise_next.1 h⟩
    · exact ⟨_, _, .stop hs, reply_next.1 h⟩
  | csFrame frame =>
    simp only [exec, execCsFrame_offered] at h
    split at h
    · exact ⟨s, _, .unchanged, reply_next.1 h⟩
    · next bytes _ => exact ⟨_, _, ringWrite_effect s bytes, reply_next.1 h⟩
  | csReset => exact ⟨_, _, .reset, reply_next.1 h⟩

/-- No effect touches the capacity, a reset neither (R9, log 21). -/
theorem Effect.cap_eq {s u : State} (h : Effect s u) : u.cap = s.cap := by
  cases h <;> rfl

/-- No operation changes the capacity (R9). -/
theorem exec_cap {i : Instr} {s t : State} (h : exec i s = .next t) : t.cap = s.cap := by
  obtain ⟨u, r, hu, rfl⟩ := exec_effect h
  exact hu.cap_eq

/-! ### The obligations -/

/-- Settles O30: -128 to 127 lie well inside the 24 bits on which the pattern is exact. -/
theorem integerPatternsAreExact : Obligations.IntegerPatternsAreExact := by
  unfold Obligations.IntegerPatternsAreExact
  exact ⟨fun z _ _ => f32Value_f32OfInt (by omega), rfl⟩

/-- Settles O54: a step waits, takes its request and refuses it, or takes it and runs one operation. -/
theorem capacityIsFixed : Obligations.CapacityIsFixed := by
  unfold Obligations.CapacityIsFixed
  intro s t h
  rcases step_cases h with ⟨_, rfl⟩ | ⟨r, rest, _, ⟨i, _, _, hi⟩ | ⟨_, _, rfl⟩ | ⟨op, _, _, rfl⟩⟩
  · rfl
  · exact (exec_cap hi).trans (State.take_cap ..)
  · rfl
  · rfl

end Sys2Proof.Machine
end

section
/-! PROOFS. The state family: what each operation does to each element of the state, and the invariant every step keeps. -/

namespace Sys2Proof.Machine

/-! ### Which operation has which effect -/

/-- A decode that answers takes exactly its groups from the buffer and writes nothing else but the caller's arrays (R170, R185). -/
theorem demux_ok {s u : State} {n : Nat} (h : demux s n = .ok u) :
    n * groupSize s.cfgr ≤ s.count ∧ ∃ o, u = (s.withOut o).advance (n * groupSize s.cfgr) := by
  rcases demux_cases s n with ⟨_, e⟩ | ⟨_, _, e⟩ | ⟨_, hlen, o, e, _⟩ <;> rw [e] at h <;> cases h
  exact ⟨hlen, o, rfl⟩

/-- What operation `i` can do in state `s`: answer `r` and, the response apart, leave the state given last. `Effect` says what
any operation can do; this says which operation does it, under which condition, and with which answer. -/
inductive OpEffect (s : State) : Instr → Response → State → Prop where
  /-- a read answers and changes nothing (R75) -/
  | read {i : Instr} (r : Response) (hread : isRead i = true) : OpEffect s i r s
  /-- an offered payload longer than the free space, counted (R150, R218) -/
  | overflow {i : Instr} {bytes : List Byte} (r : Response) (ho : offered i s = some bytes)
      (hfull : s.cap - s.count < bytes.length) : OpEffect s i r s.bumpOvf
  /-- an offered payload that fits, taken (R150, R218) -/
  | append {i : Instr} {bytes : List Byte} (r : Response) (ho : offered i s = some bytes)
      (hfit : bytes.length ≤ s.cap - s.count) : OpEffect s i r (s.append bytes)
  /-- a frame that offers no payload (R215) -/
  | discard {frame : List Byte} (ho : offered (.csFrame frame) s = none) : OpEffect s (.csFrame frame) .none s
  | consume {len : Word} (hlen : len.toNat ≤ s.count) : OpEffect s (.rbConsume len) .none (s.advance len.toNat)
  | decode {n : Word} (o : OutSpace) (hlen : n.toNat * groupSize s.cfgr ≤ s.count) :
      OpEffect s (.dmxDecode n) .none ((s.withOut o).advance (n.toNat * groupSize s.cfgr))
  | produceRefused {n : Word} (hcfg : s.configured = false) : OpEffect s (.caProduce n) (.refused .notConfigured) s
  | produceNone {n : Word} (hcfg : s.configured = true) (hnone : deliverable s n.toNat = 0) :
      OpEffect s (.caProduce n) (.word 0#32) s
  | produce {n : Word} (o : OutSpace) (hcfg : s.configured = true)
      (hlen : deliverable s n.toNat * groupSize s.cfgr ≤ s.count) :
      OpEffect s (.caProduce n) (.word (BitVec.ofNat 32 (deliverable s n.toNat)))
        ((s.withOut o).advance (deliverable s n.toNat * groupSize s.cfgr))
  | cfgRefused {arg : Word} (hrun : s.session = .capturing) : OpEffect s (.csCfg arg) (.refused .notIdle) s
  | cfgRejected {arg : Word} (cause : ConfigCause) (hidle : s.session = .idle)
      (hbad : fmtField arg = 0#2 ∨ badChannelCount arg = true) :
      OpEffect s (.csCfg arg) (.configurationError cause) s.clearConfigured
  | configure {arg : Word} (hidle : s.session = .idle) (hfmt : fmtField arg ≠ 0#2) (hch : badChannelCount arg = false) :
      OpEffect s (.csCfg arg) .ok (s.configure arg)
  | startRefused (reason : RefuseReason) (hno : s.configured = false ∨ s.session = .capturing) :
      OpEffect s .csStart (.refused reason) s
  | startFailed (cause : StartupCause) (hidle : s.session = .idle) (henv : s.startEnv ≠ .ok) :
      OpEffect s .csStart (.startupError cause) s
  | start (hidle : s.session = .idle) (hcfg : s.configured = true) (henv : s.startEnv = .ok) :
      OpEffect s .csStart .ok (s.withSession .capturing)
  | stopRefused (hidle : s.session = .idle) : OpEffect s .csStop (.refused .notCapturing) s
  | stopFailed (hrun : s.session = .capturing) (henv : s.stopEnv = .joinFail) :
      OpEffect s .csStop .shutdownError s.setFault
  | stop (hrun : s.session = .capturing) (henv : s.stopEnv = .ok) : OpEffect s .csStop .ok (s.withSession .idle)
  | reset : OpEffect s .csReset .none s.resetBlock

/-- An operation that answers has one of its own effects, and does nothing else. -/
theorem exec_opEffect {i : Instr} {s t : State} (h : exec i s = .next t) : ∃ u r, OpEffect s i r u ∧ t = u.answer r := by
  cases ho : offered i s with
  | some bytes =>
    rcases exec_offered ho h with ⟨hfull, r, rfl⟩ | ⟨hfit, r, rfl⟩
    · exact ⟨_, r, .overflow r ho hfull, rfl⟩
    · exact ⟨_, r, .append r ho hfit, rfl⟩
  | none =>
    cases i with
    | hpParse _ | csRdreg _ => exact ⟨s, _, .read _ rfl, reply_next.1 h⟩
    | rbAvail | rbOvf | csStatus => exact ⟨s, _, .read _ rfl, reply_next.1 h⟩
    | decPbN _ | decPbS _ | decP4N _ | decP4S _ | decPfN _ | decPfS _ =>
      obtain ⟨_, _, rfl⟩ := replyItem_next h
      exact ⟨s, _, .read _ rfl, rfl⟩
    | rbWrite bytes => cases ho
    | csFrame frame =>
      simp only [offered] at ho
      simp only [exec, execCsFrame_offered, ho, reply_next] at h
      exact ⟨s, _, .discard ho, h⟩
    | rbConsume len =>
      simp only [exec, execRbConsume] at h
      rcases ringConsume_cases s len.toNat with ⟨_, e⟩ | ⟨hlen, e⟩ <;> rw [e] at h
      · cases h
      · exact ⟨_, _, .consume hlen, reply_next.1 h⟩
    | dmxDecode n =>
      simp only [exec, execDmxDecode] at h
      split at h
      · next u hu =>
        obtain ⟨hlen, o, rfl⟩ := demux_ok hu
        exact ⟨_, _, .decode o hlen, reply_next.1 h⟩
      · cases h
    | caProduce n =>
      simp only [exec] at h
      rcases execCaProduce_cases n s with
        ⟨hcfg, e⟩ | ⟨_, _, e⟩ | ⟨hcfg, _, hnone, e⟩ | ⟨hcfg, _, _, _, u, hu, e⟩ <;> rw [e] at h
      · exact ⟨s, _, .produceRefused hcfg, raise_next.1 h⟩
      · cases h
      · exact ⟨s, _, .produceNone hcfg hnone, reply_next.1 h⟩
      · obtain ⟨hlen, o, rfl⟩ := demux_ok hu
        exact ⟨_, _, .produce o hcfg hlen, reply_next.1 h⟩
    | csCfg arg =>
      simp only [exec] at h
      rcases execCsCfg_cases arg s with ⟨hrun, e⟩ | ⟨hidle, hf, e⟩ | ⟨hidle, _, hb, e⟩ | ⟨hidle, hf, hb, e⟩ <;> rw [e] at h
      · exact ⟨s, _, .cfgRefused hrun, raise_next.1 h⟩
      · exact ⟨_, _, .cfgRejected _ hidle (.inl hf), raise_next.1 h⟩
      · exact ⟨_, _, .cfgRejected _ hidle (.inr hb), raise_next.1 h⟩
      · exact ⟨_, _, .configure hidle hf hb, reply_next.1 h⟩
    | csStart =>
      simp only [exec] at h
      rcases execCsStart_cases s with
        ⟨hno, e⟩ | ⟨_, hrun, e⟩ | ⟨_, hidle, henv, e⟩ | ⟨_, hidle, henv, e⟩ | ⟨hcfg, hidle, henv, e⟩ <;> rw [e] at h
      · exact ⟨s, _, .startRefused _ (.inl hno), raise_next.1 h⟩
      · exact ⟨s, _, .startRefused _ (.inr hrun), raise_next.1 h⟩
      · exact ⟨s, _, .startFailed _ hidle (by simp [henv]), raise_next.1 h⟩
      · exact ⟨s, _, .startFailed _ hidle (by simp [henv]), raise_next.1 h⟩
      · exact ⟨_, _, .start hidle hcfg henv, reply_next.1 h⟩
    | csStop =>
      simp only [exec] at h
      rcases execCsStop_cases s with ⟨hidle, e⟩ | ⟨hrun, henv, e⟩ | ⟨hrun, henv, e⟩ <;> rw [e] at h
      · exact ⟨s, _, .stopRefused hidle, raise_next.1 h⟩
      · exact ⟨_, _, .stopFailed hrun henv, raise_next.1 h⟩
      · exact ⟨_, _, .stop hrun henv, reply_next.1 h⟩
    | csReset => exact ⟨_, _, .reset, reply_next.1 h⟩

/-- Only RB.WRITE and CS.FRAME offer a payload (R31, R218). -/
theorem canWriteRing_of_offered {i : Instr} {s : State} {bytes : List Byte} (h : offered i s = some bytes) :
    canWriteRing i = true := by
  cases i with
  | rbWrite _ | csFrame _ => rfl
  | _ => cases h

/-! ### Ring space under the invariant -/

/-- A store forgets no byte: an index that held a written byte still does. -/
theorem ringStore_isSome (cap : Nat) {m : Memory} (wr : Nat) (bytes : List Byte) {j : Nat} (h : (cellGet m j).isSome) :
    (cellGet (ringStore cap m wr bytes) j).isSome := by
  induction bytes generalizing m wr with
  | nil => exact h
  | cons b rest ih =>
    refine ih _ ?_
    rw [cellGet_cellSet]
    split
    · rfl
    · exact h

/-- A payload that fits is stored behind the unconsumed bytes, and `WR` follows it (R25, R27, R28, R45). -/
theorem Inv.append {s : State} (hs : Inv s) {bytes : List Byte} (hfit : bytes.length ≤ s.cap - s.count) :
    Inv (s.append bytes) where
  __ := hs
  countLe := by have := hs.countLe; simp only [State.append_count, State.append_cap]; omega
  wrLt := Nat.mod_lt _ hs.capPos
  wrEq := by
    simp only [State.append_wr, State.append_rd, State.append_count, State.append_cap]
    rw [hs.wrEq, Nat.mod_add_mod, Nat.add_assoc]
  memWf := ringStore_wf s.cap hs.memWf s.wr bytes
  memRange := ringStore_range s.cap hs.capPos hs.memRange s.wr bytes
  written k hk := by
    simp only [State.append_count] at hk
    simp only [State.append_mem, State.append_rd, State.append_cap]
    by_cases hold : k < s.count
    · exact ringStore_isSome s.cap s.wr bytes (hs.written k hold)
    · obtain ⟨j, rfl⟩ := Nat.exists_eq_add_of_le (Nat.not_lt.1 hold)
      have hj : j < bytes.length := by omega
      have hidx : (s.rd + (s.count + j)) % s.cap = (s.wr + j) % s.cap := by rw [hs.wrEq, ring_index_add]
      rw [hidx, ringStore_stored s.cap s.mem s.wr bytes (by omega) hj]
      rfl

/-- Consuming moves `RD` along the written bytes and leaves `WR` where they end (R26, R28, R45). -/
theorem Inv.advance {s : State} (hs : Inv s) {len : Nat} (hlen : len ≤ s.count) : Inv (s.advance len) where
  __ := hs
  countLe := (Nat.sub_le ..).trans hs.countLe
  rdLt := Nat.mod_lt _ hs.capPos
  wrEq := by
    simp only [State.advance_wr, State.advance_rd, State.advance_count, State.advance_cap]
    rw [ring_index_add, Nat.add_sub_cancel' hlen, hs.wrEq]
  written k hk := by
    simp only [State.advance_count] at hk
    simp only [State.advance_mem, State.advance_rd, State.advance_cap]
    rw [ring_index_add]
    exact hs.written (len + k) (by omega)

theorem Inv.withOut {s : State} (hs : Inv s) {o : OutSpace} (ho : cellsWf o) : Inv (s.withOut o) :=
  { hs with outWf := ho }

/-! ### Control state under the invariant -/

/-- What the tests of CS.CFG let through is legal (R205, R206). -/
theorem legal_of_badChannelCount {arg : Word} (h : badChannelCount arg = false) :
    1 ≤ (nchField arg).toNat ∧ (nchField arg).toNat ≤ 4 ∧ (nchField arg).toNat ≤ (nwiredField arg).toNat := by
  simp only [badChannelCount, Config.nchMin, Config.nchMax, Bool.or_eq_false_iff, decide_eq_false_iff_not] at h
  omega

/-- A configuration empties the ring buffer and stores what the tests of CS.CFG let through (R33, R206). -/
theorem Inv.configure {s : State} (hs : Inv s) {arg : Word} (hfmt : fmtField arg ≠ 0#2)
    (hch : badChannelCount arg = false) : Inv (s.configure arg) where
  __ := hs
  countLe := Nat.zero_le _
  wrLt := hs.capPos
  rdLt := hs.capPos
  wrEq := (Nat.zero_mod s.cap).symm
  written _ hk := absurd hk (Nat.not_lt_zero _)
  reserved := cfgrOfArg_mask arg
  configuredLegal _ := by
    simp only [State.configure_cfgr, fmtField_cfgrOfArg, nchField_cfgrOfArg, nwiredField_cfgrOfArg]
    exact ⟨hfmt, legal_of_badChannelCount hch⟩
  capturingConfigured _ := rfl

/-- A rejected configuration leaves nothing configured; the session is Idle (R208, R223). -/
theorem Inv.clearConfigured {s : State} (hs : Inv s) (hidle : s.session = .idle) : Inv s.clearConfigured where
  __ := hs
  configuredLegal h := nomatch h
  capturingConfigured h := by rw [State.clearConfigured_session, hidle] at h; cases h

/-- The session may take any value that, if it is Capturing, finds the block configured (R223). -/
theorem Inv.withSession {s : State} (hs : Inv s) {v : Session} (hv : v = .capturing → s.configured = true) :
    Inv (s.withSession v) :=
  { hs with capturingConfigured := hv }

/-- The values of R44 meet the invariant whatever the state before. -/
theorem inv_resetBlock {s : State} (hcap : 1 ≤ s.cap) (hout : cellsWf s.out) : Inv s.resetBlock where
  capPos := hcap
  countLe := Nat.zero_le _
  wrLt := hcap
  rdLt := hcap
  wrEq := (Nat.zero_mod s.cap).symm
  memWf := List.Pairwise.nil
  memRange _ _ := rfl
  written _ hk := absurd hk (Nat.not_lt_zero _)
  reserved := BitVec.zero_and
  configuredLegal h := nomatch h
  capturingConfigured h := nomatch h
  outWf := hout

/-! ### The step under the invariant -/

/-- Every effect of an operation keeps the invariant. -/
theorem Effect.inv {s u : State} (h : Effect s u) (hs : Inv s) : Inv u := by
  cases h with
  | unchanged => exact hs
  | overflow _ _ => exact { hs with }
  | append _ hfit => exact hs.append hfit
  | consume _ hlen => exact hs.advance hlen
  | decode _ _ hlen hwf => exact (hs.withOut (hwf hs.outWf)).advance hlen
  | unconfigure hidle => exact hs.clearConfigured hidle
  | configure _ _ hfmt hch => exact hs.configure hfmt hch
  | start _ hcfg => exact hs.withSession fun _ => hcfg
  | stop _ => exact hs.withSession nofun
  | fail _ => exact { hs with }
  | reset => exact inv_resetBlock hs.capPos hs.outWf

/-- The invariant says nothing of the response. -/
theorem Inv.answer {s : State} (hs : Inv s) (r : Response) : Inv (s.answer r) :=
  { hs with }

/-- Taking a request whose arrays are in canonical form keeps the invariant. -/
theorem Inv.take {s : State} (hs : Inv s) {r : Request} (hr : ∀ o, r.arrays = some o → cellsWf o) (rest : List Request) :
    Inv (s.take r rest) where
  __ := hs
  outWf := by
    rw [State.take_out]
    cases ha : r.arrays with
    | none => exact hs.outWf
    | some o => exact hr o ha

/-- An operation that answers keeps the invariant. -/
theorem exec_inv {i : Instr} {s t : State} (h : exec i s = .next t) (hs : Inv s) : Inv t := by
  obtain ⟨u, r, hu, rfl⟩ := exec_effect h
  exact (hu.inv hs).answer r

/-- No operation touches what is issued and not yet taken (log 21). -/
theorem exec_queue {i : Instr} {s t : State} (h : exec i s = .next t) : t.queue = s.queue := by
  obtain ⟨u, r, hu, rfl⟩ := exec_effect h
  cases hu <;> rfl

/-- A queue that lost requests and gained none holds canonical arrays as before. -/
theorem queueWf_of_subset {s t : State} (hs : queueWf s) (hq : t.queue ⊆ s.queue) : queueWf t :=
  fun r hr => hs r (hq hr)

/-! ### The register map -/

/-- `STATUS` bit by bit (R34, R37). -/
theorem statusWord_getLsbD (s : State) (b : Nat) :
    (statusWord s).getLsbD b = ((b == 0 && s.session == .capturing) || (b == 1 && s.configured) || (b == 2 && s.faulted)
      || (b == 3 && s.count == 0) || (b == 4 && s.count == s.cap)) := by
  change BitVec.getLsbD (w := 27 + 1 + 1 + 1 + 1 + 1) (_ ++ _) b = _
  match b with
  | 0 | 1 | 2 | 3 | 4 => simp only [BitVec.getLsbD_append]; simp [isEmpty, isFull]
  | b + 5 => simp only [BitVec.getLsbD_append]; simp

/-- A count below `2^32` is read as itself (R32, R115). -/
theorem word32_toNat {n : Nat} (h : n < 2 ^ 32) : (word32 n).toNat = n := by
  rw [word32, if_pos h, BitVec.toNat_ofNat, Nat.mod_eq_of_lt h]

/-- A register number above 5 reads 0 (R219). -/
theorem registerWord_above (s : State) {n : Word} (h : 5 < n.toNat) : registerWord s n = 0#32 := by
  have hne : ∀ k : Word, k.toNat ≤ 5 → n ≠ k := fun k hk e => by subst e; omega
  simp only [registerWord, if_neg (hne 0#32 (by decide)), if_neg (hne 1#32 (by decide)), if_neg (hne 2#32 (by decide)),
    if_neg (hne 3#32 (by decide)), if_neg (hne 4#32 (by decide)), if_neg (hne 5#32 (by decide))]

/-! ### Roles -/

theorem openToAll_iff (i : Instr) : openToAll i = true ↔ i = .rbAvail ∨ i = .rbOvf := by
  cases i <;> simp [openToAll]

theorem producer_mem_ports (i : Instr) : .producer ∈ ports i ↔ ∃ frame, i = .csFrame frame := by
  cases i <;> simp [ports]

theorem consumer_mem_ports (i : Instr) : .consumer ∈ ports i ↔ i = .rbAvail ∨ ∃ requested, i = .caProduce requested := by
  cases i <;> simp [ports]

theorem owner_mem_ports (i : Instr) : .owner ∈ ports i ↔ i = .rbAvail ∨ i = .rbOvf ∨
    (∃ arg, i = .csCfg arg) ∨ i = .csStart ∨ i = .csStop ∨ (∃ n, i = .csRdreg n) ∨ i = .csStatus ∨ i = .csReset := by
  cases i <;> simp [ports]

/-- A role may issue the two reads open to all, and what its port takes (R21, R112, R163). -/
theorem mayIssue_iff (a : Agent) (i : Instr) :
    mayIssue a i = true ↔ a = .testBench ∨ (i = .rbAvail ∨ i = .rbOvf) ∨ a ∈ ports i := by
  simp [mayIssue, openToAll_iff, or_assoc]

/-- The operations that can write the ring buffer are the producer's or a test bench's (R31, R112). -/
theorem agent_of_canWriteRing {a : Agent} {i : Instr} (hring : canWriteRing i = true) (hmay : mayIssue a i = true) :
    a = .producer ∨ a = .testBench := by
  cases i with
  | rbWrite _ => exact .inr (by simpa [mayIssue_iff, ports] using hmay)
  | csFrame _ => exact Or.symm (by simpa [mayIssue_iff, ports] using hmay)
  | _ => cases hring

section
variable {i : Instr} {s t : State}

/-- What the producer may issue moves `MEM`, `WR` and `OVF`, and `COUNT` upwards (R31, R79). -/
theorem producer_changes (h : exec i s = .next t) (hmay : mayIssue .producer i = true) : s.count ≤ t.count ∧
    t = { s with mem := t.mem, wr := t.wr, count := t.count, ovf := t.ovf, resp := t.resp } := by
  obtain ⟨u, r, hu, rfl⟩ := exec_opEffect h
  cases hu with
  | read _ _ | overflow _ _ _ | discard _ => exact ⟨le_rfl, rfl⟩
  | append _ _ _ => exact ⟨Nat.le_add_right .., rfl⟩
  | _ => cases hmay

/-- What the consumer may issue moves `OUT` and `RD`, and `COUNT` downwards (R79, R195). -/
theorem consumer_changes (h : exec i s = .next t) (hmay : mayIssue .consumer i = true) : t.count ≤ s.count ∧
    t = { s with out := t.out, rd := t.rd, count := t.count, resp := t.resp } := by
  obtain ⟨u, r, hu, rfl⟩ := exec_opEffect h
  cases hu with
  | read _ _ | produceRefused _ | produceNone _ _ => exact ⟨le_rfl, rfl⟩
  | produce _ _ _ => exact ⟨Nat.sub_le .., rfl⟩
  | overflow _ ho _ | append _ ho _ => simpa using agent_of_canWriteRing (canWriteRing_of_offered ho) hmay
  | _ => cases hmay

/-- What the owner may issue moves the control state, and of the ring buffer only all of it to empty (R206, R221). -/
theorem owner_changes (h : exec i s = .next t) (hmay : mayIssue .owner i = true) :
    t = { s with session := t.session, configured := t.configured, faulted := t.faulted, cfgr := t.cfgr, resp := t.resp } ∨
      t = { s with session := t.session, configured := t.configured, faulted := t.faulted, cfgr := t.cfgr, resp := t.resp,
                   mem := t.mem, memEpoch := t.memEpoch, wr := 0, rd := 0, count := 0, ovf := 0 } := by
  obtain ⟨u, r, hu, rfl⟩ := exec_opEffect h
  cases hu with
  | configure _ _ _ | reset => exact .inr rfl
  | overflow _ ho _ | append _ ho _ => simpa using agent_of_canWriteRing (canWriteRing_of_offered ho) hmay
  | discard _ | consume _ | decode _ _ | produceRefused _ | produceNone _ _ | produce _ _ _ => cases hmay
  | _ => exact .inl rfl

end

/-! ### The obligations -/

/-- Settles O11: every effect keeps the invariant, and so do the taking of the request before it and the answer after it. -/
theorem stepKeepsInvariant : Obligations.StepKeepsInvariant := by
  unfold Obligations.StepKeepsInvariant
  intro s t hs hq h
  rcases step_cases h with ⟨_, rfl⟩ | ⟨r, rest, hqueue, hr⟩
  · exact ⟨hs, hq⟩
  have htake : Inv (s.take r rest) := hs.take (hq r (by simp [hqueue])) rest
  have hrest : queueWf (s.take r rest) := queueWf_of_subset hq (by simp [hqueue])
  rcases hr with ⟨i, _, _, hi⟩ | ⟨_, _, rfl⟩ | ⟨op, _, _, rfl⟩
  · exact ⟨exec_inv hi htake, queueWf_of_subset hrest (exec_queue hi ▸ List.Subset.refl _)⟩
  · exact ⟨hs, hq⟩
  · exact ⟨htake.answer _, hrest⟩

/-- Settles O46: each clause is one row of the register map. -/
theorem registerReadsFollowMap : Obligations.RegisterReadsFollowMap := by
  unfold Obligations.RegisterReadsFollowMap
  intro n s
  refine ⟨registerWord s n, rfl, ?cfgr, ?status, ?count, ?ovf, ?cap, ?itemSize, fun h => registerWord_above s h⟩
  case cfgr => rintro rfl; rfl
  case status => rintro rfl; exact statusWord_getLsbD s
  case count => rintro rfl h; exact word32_toNat h
  case ovf => rintro rfl; rfl
  case cap => rintro rfl h; exact word32_toNat h
  case itemSize => rintro rfl; rfl

/-- Settles O48: without an offered payload and a reset, no effect moves `MEM`, and of the others a configuration alone moves `WR`. -/
theorem onlyWritesStoreBytes : Obligations.OnlyWritesStoreBytes := by
  unfold Obligations.OnlyWritesStoreBytes
  intro i s t h hring hreset
  obtain ⟨u, r, hu, rfl⟩ := exec_opEffect h
  cases hu with
  | overflow _ ho _ | append _ ho _ => simp [canWriteRing_of_offered ho] at hring
  | reset => exact absurd rfl hreset
  | configure _ _ _ => exact ⟨fun _ => rfl, fun hcfg => absurd rfl (hcfg _)⟩
  | _ => exact ⟨fun _ => rfl, fun _ => rfl⟩

/-- Settles O50: the effects that touch `CFGR` are a configuration, which needs Idle, and a reset. -/
theorem configurationChangesOnlyWhenIdle : Obligations.ConfigurationChangesOnlyWhenIdle := by
  unfold Obligations.ConfigurationChangesOnlyWhenIdle
  intro i s t h hne
  obtain ⟨u, r, hu, rfl⟩ := exec_opEffect h
  cases hu with
  | @configure arg hidle _ _ => exact .inr ⟨arg, rfl, rfl, hidle, rfl⟩
  | reset => exact .inl rfl
  | _ => exact absurd rfl hne

/-- Settles O52: the effects that touch `FAULT` are a failed stop and a reset. -/
theorem faultFlagIsSticky : Obligations.FaultFlagIsSticky := by
  unfold Obligations.FaultFlagIsSticky
  intro i s t h
  obtain ⟨u, r, hu, rfl⟩ := exec_opEffect h
  cases hu with
  | read _ hread => cases i with
    | csReset | csStop => cases hread
    | _ => simp
  | overflow _ ho _ | append _ ho _ => cases i with
    | csReset | csStop => cases ho
    | _ => simp
  | _ => simp

/-- Settles O53: an offered payload is counted or taken; without one, a configuration and a reset alone touch `OVF`. -/
theorem overflowCounterCountsRejections : Obligations.OverflowCounterCountsRejections := by
  unfold Obligations.OverflowCounterCountsRejections
  intro i s t h
  refine ⟨fun bytes ho hfull => ?rejected, fun bytes ho hfit => ?taken, fun hzero => ?zeroed, fun hnone hreset hcfg => ?kept⟩
  case rejected =>
    rcases exec_offered ho h with ⟨_, r, rfl⟩ | ⟨hfit, _⟩
    · refine ⟨?_, rfl⟩
      simp only [State.answer_ovf, State.bumpOvf_ovf, Config.ovfMax, BitVec.toNat_ofNat]
      omega
    · omega
  case taken =>
    rcases exec_offered ho h with ⟨hfull, _⟩ | ⟨_, r, rfl⟩
    · omega
    · rfl
  case zeroed =>
    obtain ⟨u, r, hu, rfl⟩ := exec_opEffect h
    rcases hzero with rfl | ⟨arg, rfl, hok⟩
    · cases hu with
      | read _ hread => cases hread
      | overflow _ ho _ | append _ ho _ => cases ho
      | reset => rfl
    · cases hu with
      | read _ hread => cases hread
      | overflow _ ho _ | append _ ho _ => cases ho
      | cfgRefused _ | cfgRejected _ _ _ => cases hok
      | configure _ _ _ => rfl
  case kept =>
    obtain ⟨u, r, hu, rfl⟩ := exec_opEffect h
    cases hu with
    | overflow _ ho _ | append _ ho _ => simp [ho] at hnone
    | configure _ _ _ => exact absurd rfl (hcfg _ rfl)
    | reset => exact absurd rfl hreset
    | _ => rfl

/-- Settles O56: the operations of each role, and for each of them its own effects. -/
theorem eachRoleChangesItsOwnPart : Obligations.EachRoleChangesItsOwnPart := by
  unfold Obligations.EachRoleChangesItsOwnPart
  intro i s t h
  exact ⟨producer_changes h, consumer_changes h, owner_changes h⟩

/-- Settles O9: CS.RESET has one outcome, and power-on is a literal. -/
theorem resetLeavesInitialState : Obligations.ResetLeavesInitialState := by
  unfold Obligations.ResetLeavesInitialState
  exact ⟨fun _ => rfl, rfl, rfl, rfl, rfl, rfl, rfl, rfl, rfl, rfl⟩

/-- Settles O10: power-on holds the values a reset leaves, and nothing is issued. -/
theorem resetMeetsInvariant : Obligations.ResetMeetsInvariant := by
  unfold Obligations.ResetMeetsInvariant
  have hinv : Inv State.reset.resetBlock := inv_resetBlock (Nat.le_add_left ..) List.Pairwise.nil
  exact ⟨{ hinv with }, fun _ hr => nomatch hr⟩

/-- Settles O60: the port column of R112 role by role. -/
theorem rolesMayIssueTheirOperations : Obligations.RolesMayIssueTheirOperations := by
  unfold Obligations.RolesMayIssueTheirOperations
  intro a i
  rw [mayIssue_iff]
  cases a with
  | testBench => simp
  | producer => simp [producer_mem_ports, or_assoc]
  | consumer => simp only [consumer_mem_ports, reduceCtorEq, false_and, true_and, false_or, or_false]; tauto
  | owner => simp only [owner_mem_ports, reduceCtorEq, false_and, true_and, false_or]; tauto

end Sys2Proof.Machine
end

section
/-! PROOFS. The memory family: what operations do to the byte stream and the occupancy, what reads leave, and which operations
commute. -/

namespace Sys2Proof.Machine

/-! ### The stream under the other updates of the state -/

@[simp] theorem stream_answer (s : State) (r : Response) : stream (s.answer r) = stream s := rfl
@[simp] theorem stream_bumpOvf (s : State) : stream s.bumpOvf = stream s := rfl
@[simp] theorem stream_withOut (s : State) (o : OutSpace) : stream (s.withOut o) = stream s := rfl
@[simp] theorem stream_withSession (s : State) (v : Session) : stream (s.withSession v) = stream s := rfl
@[simp] theorem stream_setFault (s : State) : stream s.setFault = stream s := rfl
@[simp] theorem stream_clearConfigured (s : State) : stream s.clearConfigured = stream s := rfl
@[simp] theorem stream_configure (s : State) (arg : Word) : stream (s.configure arg) = [] := rfl
@[simp] theorem stream_resetBlock (s : State) : stream s.resetBlock = [] := rfl

/-! ### The byte queue, operation by operation -/

/-- The queue takes an offered payload whole or not at all, whichever operation offers it (R76, R218). -/
theorem fifoNext_of_offered {i : Instr} {s : State} {bytes : List Byte} (ho : offered i s = some bytes) (q : List Byte) :
    fifoNext i s q = fifoOffer s.cap q bytes := by
  cases i with
  | rbWrite _ => cases ho; rfl
  | csFrame _ => simp only [offered] at ho; simp only [fifoNext, ho]
  | _ => cases ho

/-- A frame that offers no payload leaves the queue (R215). -/
theorem fifoNext_csFrame_of_none {frame : List Byte} {s : State} (ho : offered (.csFrame frame) s = none) (q : List Byte) :
    fifoNext (.csFrame frame) s q = q := by
  simp only [offered] at ho; simp only [fifoNext, ho]

/-- A read leaves the queue (R75). -/
theorem fifoNext_of_isRead {i : Instr} (h : isRead i = true) (s : State) (q : List Byte) : fifoNext i s q = q := by
  cases i with
  | rbWrite _ | rbConsume _ | dmxDecode _ | caProduce _ | csCfg _ | csFrame _ => cases h
  | csStart | csStop | csReset => cases h
  | _ => rfl

/-- CA.PRODUCE takes the bytes of the groups it can deliver off the queue (R195, R197). -/
theorem fifoNext_caProduce {s : State} (n : Word) (hcfg : s.configured = true) :
    fifoNext (.caProduce n) s (stream s) = (stream s).drop (deliverable s n.toNat * groupSize s.cfgr) := by
  simp [fifoNext, hcfg, deliverable]

/-- Each effect does to the stream what its operation does to the queue (R161). -/
theorem OpEffect.stream_eq {i : Instr} {s u : State} {r : Response} (h : OpEffect s i r u) (hs : Inv s) :
    stream u = fifoNext i s (stream s) := by
  have hle : s.count ≤ s.cap := hs.countLe
  cases h with
  | read _ hread => exact (fifoNext_of_isRead hread s _).symm
  | overflow _ ho hfull => simp [fifoNext_of_offered ho, fifoOffer, hfull]
  | append _ ho hfit => rw [fifoNext_of_offered ho, stream_append hs.wrEq (by omega)]; simp [fifoOffer, hfit]
  | discard ho => exact (fifoNext_csFrame_of_none ho _).symm
  | consume _ | decode _ _ => simp [fifoNext, stream_advance]
  | produceRefused hcfg => simp [fifoNext, hcfg]
  | produceNone hcfg hnone => simp [fifoNext_caProduce _ hcfg, hnone]
  | produce _ hcfg _ => simp [fifoNext_caProduce _ hcfg, stream_advance]
  | cfgRefused hrun => simp [fifoNext, hrun]
  | cfgRejected _ _ hbad => simp [fifoNext, hbad]
  | configure hidle hfmt hch => simp [fifoNext, hidle, hfmt, hch]
  | startRefused _ _ | startFailed _ _ _ | start _ _ _ | stopRefused _ | stopFailed _ _ | stop _ _ | reset => simp [fifoNext]

/-! ### Reads -/

/-- A decoder called directly does not look at the last response. -/
theorem replyItem_answer (s : State) (r : Response) (item : Except Fault Sample) :
    replyItem (s.answer r) item = replyItem s item := by
  cases item <;> rfl

/-- What a read answers does not depend on the last response, which is all it changes (R75). -/
theorem exec_answer_of_isRead {i : Instr} (h : isRead i = true) (s : State) (r : Response) :
    exec i (s.answer r) = exec i s := by
  cases i with
  | hpParse _ | csRdreg _ => rfl
  | rbAvail | rbOvf | csStatus => rfl
  | decPbN _ | decPbS _ | decP4N _ | decP4S _ | decPfN _ | decPfS _ => exact replyItem_answer s r _
  | _ => cases h

/-- No read offers a payload. -/
theorem offered_of_isRead {i : Instr} (h : isRead i = true) (s : State) : offered i s = none := by
  cases i with
  | rbWrite _ | csFrame _ => cases h
  | _ => rfl

/-- A read that answers changes the response and nothing else (R75). -/
theorem exec_of_isRead {i : Instr} {s t : State} (h : isRead i = true) (he : exec i s = .next t) : ∃ r, t = s.answer r := by
  obtain ⟨u, r, hu, rfl⟩ := exec_opEffect he
  cases hu with
  | read _ _ => exact ⟨r, rfl⟩
  | overflow _ ho _ | append _ ho _ => rw [offered_of_isRead h] at ho; cases ho
  | _ => cases h

/-! ### A write -/

/-- `OVF` goes up by one and stays at its largest value (R29). -/
theorem bumpOvf_ovf_saturates (s : State) :
    s.bumpOvf.ovf = if s.ovf.toNat = 2 ^ 32 - 1 then s.ovf else s.ovf + 1 := by
  have hlt : s.ovf.toNat < 2 ^ 32 := s.ovf.isLt
  apply BitVec.eq_of_toNat_eq
  rw [State.bumpOvf_ovf, BitVec.toNat_ofNat, Config.ovfMax]
  split
  · omega
  · rw [BitVec.toNat_add, show (1 : Word).toNat = 1 from rfl]; omega

/-- A frame whose payload fits stores it and answers nothing (R215, R152). -/
theorem execCsFrame_of_fits {frame bytes : List Byte} {s : State} (hp : framePayload frame s = some bytes)
    (hfit : bytes.length ≤ s.cap - s.count) : execCsFrame frame s = .next ((s.append bytes).answer .none) := by
  rw [execCsFrame_offered, hp]
  rcases ringWrite_cases s bytes with ⟨hfull, _⟩ | ⟨_, e⟩
  · omega
  · simp only [e]; rfl

/-! ### A captured frame, by the numbers of R98 -/

/-- A captured byte as a number. -/
theorem frameByte_toNat (beyond : Nat → Byte) {frame : List Byte} {i : Nat} (h : i < frame.length) :
    (frameByte beyond frame i).toNat = hdrByte frame i := by
  simp [frameByte, hdrByte, h]

/-- A captured 16-bit field as a number (R66). -/
theorem be16_eq (beyond : Nat → Byte) {frame : List Byte} {i : Nat} (h : i + 1 < frame.length) :
    be16 beyond frame i = hdrByte frame i * 256 + hdrByte frame (i + 1) := by
  rw [be16, frameByte_toNat beyond (by omega), frameByte_toNat beyond h]

/-- `u` as a number (R98, R134). -/
theorem udpOffset_eq (beyond : Nat → Byte) {frame : List Byte} (h : 14 < frame.length) :
    udpOffset (frameByte beyond frame 14) = hdrUdp frame := by
  simp [udpOffset, ihl, hdrUdp, frameByte_toNat beyond h]

/-- HP.PARSE passes each of its tests on a frame that meets the conditions of R132 to R137 (R130, R138). -/
theorem parseFrameWith_of_acceptable (beyond : Nat → Byte) {port : BitVec 16} {frame : List Byte}
    (h : acceptable port.toNat frame) : parseFrameWith beyond port frame = some (hdrUdp frame + 8, hdrUlen frame - 8) := by
  obtain ⟨h15, h12, h13, hudp, hport, hulen, hin⟩ := h
  have htype : be16 beyond frame 12 = 0x0800 := by rw [be16_eq beyond (by omega), h12, h13]
  have hdport : be16 beyond frame (hdrUdp frame + 2) = port.toNat := by rw [be16_eq beyond (by omega), ← hport]; rfl
  have hlen : be16 beyond frame (hdrUdp frame + 4) = hdrUlen frame := by rw [be16_eq beyond (by omega)]; rfl
  have hparse : parseUdp beyond port frame (hdrUdp frame) = some (hdrUdp frame + 8, hdrUlen frame - 8) := by
    rw [parseUdp, hlen, payloadLength, Config.udpHlen, if_neg (by omega), if_neg (not_not.2 hdport), if_neg (by omega),
      if_neg (by omega)]
    congr 2
    omega
  rw [parseFrameWith, Config.ethHlen, Config.ethertypeIpv4, if_neg (by omega), if_neg (not_not.2 htype), if_neg (by omega),
    udpOffset_eq beyond (by omega), hparse]

/-- While Capturing, a frame that meets the conditions of R132 to R137 offers its payload (R215). -/
theorem framePayload_of_acceptable {frame : List Byte} {s : State} (hrun : s.session = .capturing)
    (h : acceptable (s.cfgr.toNat % 65536) frame) :
    framePayload frame s = some (payloadOf frame (hdrUdp frame + 8) (hdrUlen frame - 8)) := by
  rw [← portField_toNat] at h
  simp [framePayload, hrun, parseFrame, parseFrameWith_of_acceptable _ h]

/-! ### Decoding from two states that read the same -/

/-- Up to stream offset `n` the two states hold the same bytes, and they are configured alike: no decode inside these `n` bytes
can tell them apart. -/
structure ReadsAlike (n : Nat) (s t : State) : Prop where
  cfgr : t.cfgr = s.cfgr
  read : ∀ k, k < n → rbRead t k = rbRead s k

section
variable {n : Nat} {s t : State}

/-- One item, under every format and for no format at all (R116, R120). -/
theorem ReadsAlike.decodeItem_eq (h : ReadsAlike n s t) {p : Nat} (hp : p + bps (fmtField s.cfgr) ≤ n) :
    decodeItem t p = decodeItem s p := by
  have hread := h.read
  unfold decodeItem selOf
  rw [h.cfgr]
  generalize fmtField s.cfgr = f at *
  generalize swapField s.cfgr = w
  have hw : w = 0#1 ∨ w = 1#1 := by revert w; decide
  have hf : f = 0#2 ∨ f = 1#2 ∨ f = 2#2 ∨ f = 3#2 := by clear hp; revert f; decide
  rcases hf with rfl | rfl | rfl | rfl <;> rcases hw with rfl | rfl <;> simp [bps] at hp ⊢
  · simp (disch := omega) only [itemPbN, hread]
  · simp (disch := omega) only [itemPbS, hread]
  · simp (disch := omega) only [itemP4N, hread]
  · simp (disch := omega) only [itemP4S, hread]
  · simp (disch := omega) only [itemPfN, le32, hread]
  · simp (disch := omega) only [itemPfS, le32, hread]

theorem ReadsAlike.itemOffset_eq (h : ReadsAlike n s t) (ch smp : Nat) : itemOffset t ch smp = itemOffset s ch smp := by
  rw [itemOffset, h.cfgr, itemOffset]

/-- The channels of one sample. -/
theorem ReadsAlike.decodeChannels_eq (h : ReadsAlike n s t) {smp k : Nat} (o : OutSpace)
    (hk : ∀ ch, ch < k → itemOffset s ch smp + bps (fmtField s.cfgr) ≤ n) :
    decodeChannels t smp k o = decodeChannels s smp k o := by
  induction k with
  | zero => rfl
  | succ k ih =>
    rw [decodeChannels, decodeChannels, ih fun ch hch => hk ch (by omega), h.itemOffset_eq, h.decodeItem_eq (hk k (by omega))]

/-- The samples of every channel. -/
theorem ReadsAlike.decodeSamples_eq (h : ReadsAlike n s t) {m : Nat} (hm : m * groupSize s.cfgr ≤ n) (o : OutSpace) :
    decodeSamples t m o = decodeSamples s m o := by
  induction m with
  | zero => rfl
  | succ m ih =>
    have hle : m * groupSize s.cfgr ≤ (m + 1) * groupSize s.cfgr := Nat.mul_le_mul_right _ (Nat.le_succ m)
    rw [decodeSamples, decodeSamples, ih (hle.trans hm), h.cfgr]
    congr 1
    funext o'
    exact h.decodeChannels_eq o' fun ch hch => (itemOffset_le s hch (Nat.lt_succ_self m)).trans hm

end

/-- Behind an append every byte that was unconsumed reads as before (R152). -/
theorem readsAlike_append {s : State} (hs : Inv s) {bytes : List Byte} (hfit : bytes.length ≤ s.cap - s.count) :
    ReadsAlike s.count s (s.append bytes) where
  cfgr := rfl
  read k hk := by
    have hle : s.count ≤ s.cap := hs.countLe
    have hk' : k < (s.append bytes).count := by rw [State.append_count]; omega
    rw [rbRead_ok hk, rbRead_ok hk', ← stream_get _ hk, ← stream_get _ hk']
    simp only [stream_append hs.wrEq (show s.count + bytes.length ≤ s.cap by omega)]
    rw [List.getElem_append_left]

/-- The response is no part of what is read. -/
theorem ReadsAlike.answer {n : Nat} {s t : State} (h : ReadsAlike n s t) (r : Response) : ReadsAlike n s (t.answer r) :=
  { h with }

/-! ### A decode and a write -/

/-- DMX.DECODE of bytes that are there writes the decoded samples, takes the bytes and answers nothing (R170). -/
theorem execDmxDecode_eq {s : State} {n : Word} {o : OutSpace} (hf : fmtField s.cfgr ≠ 0#2)
    (hn : n.toNat * groupSize s.cfgr ≤ s.count) (ho : decodeSamples s n.toNat s.out = .ok o) :
    execDmxDecode n s = .next (((s.withOut o).advance (n.toNat * groupSize s.cfgr)).answer .none) := by
  have hdemux : demux s n.toNat = .ok ((s.withOut o).advance (n.toNat * groupSize s.cfgr)) := by
    rcases ringConsume_cases (s.withOut o) (n.toNat * groupSize s.cfgr) with ⟨hlt, _⟩ | ⟨_, e⟩
    · rw [State.withOut_count] at hlt; omega
    · simp [demux, hf, Nat.not_lt.2 hn, ho, e, bind, Except.bind]
  rw [execDmxDecode, hdemux]; rfl

/-- Consuming bytes that are there and taking a payload move different cursors, so their order does not matter (R79). -/
theorem State.advance_append {s : State} {len : Nat} (hlen : len ≤ s.count) (bytes : List Byte) :
    (s.append bytes).advance len = (s.advance len).append bytes := by
  simp only [State.append, State.advance, Nat.sub_add_comm hlen]

/-- A decode and a frame whose payload fits reach the same state in either order: the decode reads only bytes that were there
before the payload, and leaves no less room for it (R79, R81). -/
theorem exec_dmxDecode_csFrame_comm {n : Word} {frame bytes : List Byte} {s : State} (hs : Inv s)
    (hf : fmtField s.cfgr ≠ 0#2) (hn : n.toNat * groupSize s.cfgr ≤ s.count) (hp : framePayload frame s = some bytes)
    (hfit : bytes.length ≤ s.cap - s.count) :
    ∃ a b t, exec (.csFrame frame) s = .next a ∧ exec (.dmxDecode n) a = .next t ∧
      exec (.dmxDecode n) s = .next b ∧ exec (.csFrame frame) b = .next t := by
  obtain ⟨o, ho, _⟩ := decodeSamples_ok hf hn s.out
  have hafter : execDmxDecode n ((s.append bytes).answer .none) =
      .next ((((s.withOut o).advance (n.toNat * groupSize s.cfgr)).append bytes).answer .none) := by
    have halike : ReadsAlike s.count s ((s.append bytes).answer .none) := (readsAlike_append hs hfit).answer .none
    have hmore : n.toNat * groupSize s.cfgr ≤ (s.append bytes).count := hn.trans (Nat.le_add_right ..)
    rw [execDmxDecode_eq (s := (s.append bytes).answer .none) hf hmore ((halike.decodeSamples_eq hn s.out).trans ho),
      ← State.advance_append (s := s.withOut o) hn]
    rfl
  have hroom : bytes.length ≤ s.cap - (s.count - n.toNat * groupSize s.cfgr) :=
    hfit.trans (Nat.sub_le_sub_left (Nat.sub_le ..) _)
  exact ⟨_, _, _, execCsFrame_of_fits hp hfit, hafter, execDmxDecode_eq hf hn ho, execCsFrame_of_fits hp hroom⟩

/-! ### The obligations -/

/-- Settles O24: by the effects, each of which does to the stream what its operation does to the queue. -/
theorem ringBufferRefinesByteQueue : Obligations.RingBufferRefinesByteQueue := by
  unfold Obligations.RingBufferRefinesByteQueue
  intro i s t hs h
  obtain ⟨u, r, hu, rfl⟩ := exec_opEffect h
  exact (stream_answer u r).trans (hu.stream_eq hs)

/-- Settles O49: a read changes the response alone, and no read looks at it. -/
theorem readsHaveNoSideEffect : Obligations.ReadsHaveNoSideEffect := by
  unfold Obligations.ReadsHaveNoSideEffect
  intro i s t hread h
  obtain ⟨r, rfl⟩ := exec_of_isRead hread h
  exact ⟨rfl, (exec_answer_of_isRead hread s r).trans h⟩

/-- Settles O55: CS.FRAME is the producer's and CA.PRODUCE the consumer's, and RB.AVAIL, which both may issue, moves `COUNT`
neither way. -/
theorem occupancyMovesOneWayPerRole : Obligations.OccupancyMovesOneWayPerRole := by
  unfold Obligations.OccupancyMovesOneWayPerRole
  intro s t
  refine ⟨fun frame h => ?frame, fun requested h => ?produce, fun h => ?avail⟩
  case frame => exact (producer_changes h rfl).1
  case produce => exact (consumer_changes h rfl).1
  case avail => exact le_antisymm (consumer_changes h rfl).1 (producer_changes h rfl).1

/-- Settles O59: the frame offers its payload, which fits, and the group spelt out is the group size of `CFGR`. -/
theorem decodeAndFrameCommute : Obligations.DecodeAndFrameCommute := by
  unfold Obligations.DecodeAndFrameCommute
  rintro n frame s _ _ _ rfl rfl rfl hs hfmt hrun hframe hfit hn
  have hlen : (payloadOf frame (hdrUdp frame + 8) (hdrUlen frame - 8)).length = hdrUlen frame - 8 := by
    obtain ⟨_, _, _, _, _, _, hin⟩ := hframe
    exact payloadOf_length (by omega)
  rw [← groupSize_eq s.cfgr hfmt] at hn
  exact exec_dmxDecode_csFrame_comm hs (mt (fmtField_eq_zero s.cfgr).1 hfmt) hn (framePayload_of_acceptable hrun hframe)
    (hlen.trans_le hfit)

/-- Settles O18: of the two outcomes of a write the one for a payload that does not fit. -/
theorem writeThatOverflowsIsCounted : Obligations.WriteThatOverflowsIsCounted := by
  unfold Obligations.WriteThatOverflowsIsCounted
  intro bytes s hfull
  rcases ringWrite_cases s bytes with ⟨_, e⟩ | ⟨hfit, _⟩
  · rw [← bumpOvf_ovf_saturates, exec, execRbWrite, e]; rfl
  · omega

end Sys2Proof.Machine
end

section
/-! PROOFS. The encoding family: the layout of each operation's encoding, which reading and writing both follow; and what becomes
of a request that reads as none. -/

namespace Sys2Proof

/-! ### The operand bytes of a command (R110) -/

/-- The four bytes of a command of format W are the encoding of the `ARG` they make. -/
theorem encodeW_argOfBytes (op b1 b2 b3 b4 : Byte) :
    encodeW op (argOfBytes b1 b2 b3 b4) = .command [op, b1, b2, b3, b4] := by
  obtain ⟨h1, h2, h3, h4⟩ := extract_argOfBytes b1 b2 b3 b4
  rw [encodeW, h1, h2, h3, h4]

/-- The two bytes of a `LEN` are those that write it. -/
theorem ofNat_lenOfBytes (hi lo : Byte) :
    BitVec.ofNat 8 (lenOfBytes hi lo / 256) = hi ∧ BitVec.ofNat 8 (lenOfBytes hi lo) = lo := by
  unfold lenOfBytes
  constructor <;> apply BitVec.eq_of_toNat_eq <;> simp only [BitVec.toNat_ofNat] <;> omega

theorem lenOfBytes_le (hi lo : Byte) : lenOfBytes hi lo ≤ Config.maxCap := by
  simp only [lenOfBytes, Config.maxCap]; omega

/-- Data bytes under a `LEN` that counts them are a command of format S. -/
theorem encodeS_of_length (op : Byte) {hi lo : Byte} {data : List Byte} (h : data.length = lenOfBytes hi lo) :
    encodeS op data = .command (op :: hi :: lo :: data) := by
  obtain ⟨hhi, hlo⟩ := ofNat_lenOfBytes hi lo
  rw [encodeS, h, hhi, hlo]

/-! ### When each format reads as an operation (R110) -/

theorem decodeZ_eq_ok {i j : Instr} {rest : List Byte} : decodeZ i rest = .ok j ↔ rest = [] ∧ i = j := by
  cases rest <;> simp [decodeZ]

theorem decodeW_eq_ok {f : Word → Instr} {rest : List Byte} {j : Instr} :
    decodeW f rest = .ok j ↔ ∃ b1 b2 b3 b4, rest = [b1, b2, b3, b4] ∧ f (argOfBytes b1 b2 b3 b4) = j := by
  constructor
  · intro h
    unfold decodeW at h
    split at h
    · next b1 b2 b3 b4 => exact ⟨b1, b2, b3, b4, rfl, Except.ok.inj h⟩
    · cases h
    · cases h
  · rintro ⟨b1, b2, b3, b4, rfl, rfl⟩; rfl

theorem decodeS_of_short (f : List Byte → Instr) {hi lo : Byte} {data : List Byte} (h : data.length < lenOfBytes hi lo) :
    decodeS f (hi :: lo :: data) = .error .incomplete := by
  simp [decodeS, h]

theorem decodeS_of_length (f : List Byte → Instr) {hi lo : Byte} {data : List Byte} (h : data.length = lenOfBytes hi lo) :
    decodeS f (hi :: lo :: data) = .ok (f data) := by
  simp [decodeS, h]

theorem decodeS_eq_ok {f : List Byte → Instr} {rest : List Byte} {j : Instr} :
    decodeS f rest = .ok j ↔ ∃ hi lo data, rest = hi :: lo :: data ∧ data.length = lenOfBytes hi lo ∧ f data = j := by
  constructor
  · intro h
    unfold decodeS at h
    split at h
    · next hi lo data =>
      split_ifs at h with hshort hlong
      exact ⟨hi, lo, data, rfl, by omega, Except.ok.inj h⟩
    · cases h
  · rintro ⟨hi, lo, data, rfl, hlen, rfl⟩; exact decodeS_of_length f hlen

/-! ### The layout of an operation's encoding -/

/-- `LaidOut w i`: on the port, `w` is operation `i` in the format that R110 and R112 give its `OP`, or the decoder that R116 gives
its `SEL`. Reading and writing are each tied to this one relation. -/
inductive LaidOut : Wire → Instr → Prop where
  /-- format Z: `OP` alone -/
  | formatZ {op : Byte} {i : Instr} (hop : formatOf op = some (.z i)) : LaidOut (.command [op]) i
  /-- format W: `OP` and `ARG` -/
  | formatW {op : Byte} {f : Word → Instr} (hop : formatOf op = some (.w f)) (arg : Word) : LaidOut (encodeW op arg) (f arg)
  /-- format S: `OP`, `LEN` and data that `LEN` can count -/
  | formatS {op : Byte} {f : List Byte → Instr} (hop : formatOf op = some (.s f)) {data : List Byte}
      (hfit : fitsLen data = true) : LaidOut (encodeS op data) (f data)
  /-- a decoder by its selector -/
  | decoder {sel : BitVec 3} {p : Nat} {i : Instr} (hsel : decoderOf sel p = some i) : LaidOut (.decoder sel p) i

theorem LaidOut.decode_eq {w : Wire} {i : Instr} (h : LaidOut w i) : decode w = .ok i := by
  cases h with
  | formatZ hop => simp [decode, decodeCommand, hop, decodeZ]
  | formatW hop arg => simp [decode, encodeW, decodeCommand, hop, decodeW, argOfBytes_extract]
  | formatS hop hfit =>
    have hlen := lenOfBytes_ofNat (of_decide_eq_true hfit)
    simp [decode, encodeS, decodeCommand, hop, decodeS_of_length _ hlen.symm]
  | decoder hsel => simp [decode, hsel]

theorem laidOut_of_decodeCommand {bytes : List Byte} {i : Instr} (h : decodeCommand bytes = .ok i) :
    LaidOut (.command bytes) i := by
  unfold decodeCommand at h
  split at h
  · cases h
  · next op rest =>
    split at h
    · cases h
    · next j hop =>
      obtain ⟨rfl, rfl⟩ := decodeZ_eq_ok.1 h
      exact .formatZ hop
    · next f hop =>
      obtain ⟨b1, b2, b3, b4, rfl, rfl⟩ := decodeW_eq_ok.1 h
      exact encodeW_argOfBytes op b1 b2 b3 b4 ▸ .formatW hop _
    · next f hop =>
      obtain ⟨hi, lo, data, rfl, hlen, rfl⟩ := decodeS_eq_ok.1 h
      exact encodeS_of_length op hlen ▸ .formatS hop (decide_eq_true (hlen.trans_le (lenOfBytes_le hi lo)))

/-- Reading follows the layout: what is read is exactly what is laid out. -/
theorem decode_eq_ok {w : Wire} {i : Instr} : decode w = .ok i ↔ LaidOut w i := by
  refine ⟨fun h => ?_, LaidOut.decode_eq⟩
  cases w with
  | command bytes => exact laidOut_of_decodeCommand h
  | decoder sel p =>
    simp only [decode] at h
    split at h
    · next j hsel => cases h; exact .decoder hsel
    · cases h

/-- Writing follows the layout: a well-formed operation is written as it is laid out. CS.RDREG of the register that CS.STATUS reads
is the one operation whose word belongs to another (R220). -/
theorem laidOut_encode {i : Instr} (h : wellFormed i = true) : LaidOut (encode i) i := by
  cases i with
  | hpParse frame | rbWrite bytes | csFrame frame => exact .formatS rfl h
  | rbAvail | rbOvf | csStart | csStop | csReset => exact .formatZ rfl
  | rbConsume arg | dmxDecode arg | caProduce arg | csCfg arg => exact .formatW rfl arg
  | csRdreg n =>
    have hn : rdregOrStatus n = .csRdreg n := if_neg (bne_iff_ne.1 h)
    have hlaid : LaidOut (encodeW 0x54#8 n) (rdregOrStatus n) := .formatW rfl n
    rw [hn] at hlaid
    exact hlaid
  | csStatus => exact .formatW (f := rdregOrStatus) rfl 1#32
  | decPbN p | decPbS p | decP4N p | decP4S p | decPfN p | decPfS p => exact .decoder rfl

/-- Format `fmt` makes of each operand an operation that is written with `OP` and that operand again, and that is well formed if the
operand fits its format. -/
def CommandFormat.WrittenWith (op : Byte) : CommandFormat → Prop
  | .z i => wellFormed i = true ∧ encode i = .command [op]
  | .w f => ∀ arg, wellFormed (f arg) = true ∧ encode (f arg) = encodeW op arg
  | .s f => ∀ data, wellFormed (f data) = fitsLen data ∧ encode (f data) = encodeS op data

theorem wellFormed_rdregOrStatus (n : Word) : wellFormed (rdregOrStatus n) = true := by
  unfold rdregOrStatus
  split
  · rfl
  · next h => exact bne_iff_ne.2 h

theorem encode_rdregOrStatus (n : Word) : encode (rdregOrStatus n) = encodeW 0x54#8 n := by
  unfold rdregOrStatus
  split
  · next h => rw [h]; rfl
  · rfl

/-- Every row of R112 is written with the `OP` it is read by; the twelfth, CS.RDREG, shares its `OP` with CS.STATUS (R220). -/
theorem writtenWith_of_formatOf {op : Byte} {fmt : CommandFormat} (h : formatOf op = some fmt) : fmt.WrittenWith op := by
  rcases formatOf_cases op with ⟨rfl, e⟩ | ⟨rfl, e⟩ | ⟨rfl, e⟩ | ⟨rfl, e⟩ | ⟨rfl, e⟩ | ⟨rfl, e⟩ | ⟨rfl, e⟩ | ⟨rfl, e⟩ |
    ⟨rfl, e⟩ | ⟨rfl, e⟩ | ⟨rfl, e⟩ | ⟨rfl, e⟩ | ⟨rfl, e⟩ | e <;> rw [e] at h <;> cases h
  on_goal 12 => exact fun n => ⟨wellFormed_rdregOrStatus n, encode_rdregOrStatus n⟩
  all_goals simp [CommandFormat.WrittenWith, wellFormed, encode]

/-- A decoder is written with the selector it is read by (R116). -/
theorem encode_of_decoderOf {sel : BitVec 3} {p : Nat} {i : Instr} (h : decoderOf sel p = some i) :
    wellFormed i = true ∧ encode i = .decoder sel p := by
  unfold decoderOf at h
  split_ifs at h with h2 h3 h4 h5 h6 h7 <;> cases h <;> subst sel <;> exact ⟨rfl, rfl⟩

/-- What is laid out as an operation is what the operation is written as, and the operation is well formed. -/
theorem LaidOut.encode_eq {w : Wire} {i : Instr} (h : LaidOut w i) : wellFormed i = true ∧ encode i = w := by
  cases h with
  | formatZ hop => exact writtenWith_of_formatOf hop
  | formatW hop arg => exact writtenWith_of_formatOf hop arg
  | formatS hop hfit =>
    obtain ⟨hwf, henc⟩ := writtenWith_of_formatOf hop _
    exact ⟨hwf.trans hfit, henc⟩
  | decoder hsel => exact encode_of_decoderOf hsel

/-! ### Commands that read as no operation (R122) -/

/-- The three `OP` bytes of format S (R112). -/
theorem formatOf_formatS {op : Byte} (h : op = 0x10 ∨ op = 0x20 ∨ op = 0x53) : ∃ f, formatOf op = some (.s f) := by
  rcases h with rfl | rfl | rfl <;> exact ⟨_, rfl⟩

/-- An `OP` byte that is none of R112's thirteen names nothing. -/
theorem formatOf_eq_none {op : Byte}
    (h : op.toNat ∉ [0x10, 0x20, 0x21, 0x22, 0x23, 0x30, 0x40, 0x50, 0x51, 0x52, 0x53, 0x54, 0x5F]) : formatOf op = none := by
  rcases formatOf_cases op with ⟨rfl, _⟩ | ⟨rfl, _⟩ | ⟨rfl, _⟩ | ⟨rfl, _⟩ | ⟨rfl, _⟩ | ⟨rfl, _⟩ | ⟨rfl, _⟩ | ⟨rfl, _⟩ |
    ⟨rfl, _⟩ | ⟨rfl, _⟩ | ⟨rfl, _⟩ | ⟨rfl, _⟩ | ⟨rfl, _⟩ | e
  on_goal 14 => exact e
  all_goals exact absurd h (by decide)

/-- A command of format S with fewer data bytes than its `LEN` announces is incomplete. -/
theorem decode_of_short {op hi lo : Byte} {data : List Byte} (hop : op = 0x10 ∨ op = 0x20 ∨ op = 0x53)
    (hshort : data.length < lenOfBytes hi lo) : decode (.command (op :: hi :: lo :: data)) = .error .incomplete := by
  obtain ⟨f, hf⟩ := formatOf_formatS hop
  simp [decode, decodeCommand, hf, decodeS_of_short f hshort]

theorem decode_of_formatOf_eq_none {op : Byte} (h : formatOf op = none) (more : List Byte) :
    decode (.command (op :: more)) = .error (.unknownOp op) := by
  simp [decode, decodeCommand, h]

end Sys2Proof

namespace Sys2Proof.Machine

/-! ### The step on a request that is not run -/

theorem step_of_queue_nil {s : State} (h : s.queue = []) : step s = .next s := by
  simp [step, h]

/-- The step on a command that reads as no operation is its rejection, whoever issued it. -/
theorem step_of_decode_error {s : State} {r : Request} {rest : List Request} {bytes : List Byte} {e : DecodeError}
    (hq : s.queue = r :: rest) (hw : r.wire = .command bytes) (he : decode (.command bytes) = .error e) :
    step s = rejectRequest s (s.take r rest) (.unread e) := by
  have hf : fetch r = .error (.unread e) := fetch_of_error hw (hw ▸ he)
  simp [step, hq, hf]

/-! ### The obligations -/

/-- Settles O1: a well-formed operation is written as it is laid out, and what is laid out is read. -/
theorem decodeInvertsEncode : Obligations.DecodeInvertsEncode := by
  unfold Obligations.DecodeInvertsEncode
  exact fun _ h => (laidOut_encode h).decode_eq

/-- Settles O2: what is read is laid out, and what is laid out is what the operation is written as. -/
theorem encodeInvertsDecode : Obligations.EncodeInvertsDecode := by
  unfold Obligations.EncodeInvertsDecode
  exact fun _ _ h => (decode_eq_ok.1 h).encode_eq

/-- Settles O3: each word is the layout of its operation, whose data or `ARG` the word writes out. -/
theorem specWordsDecode : Obligations.SpecWordsDecode := by
  unfold Obligations.SpecWordsDecode
  refine ⟨?hpParse, ?rbWrite, ?caProduce, ?csCfg, ?csStart, ?decP4N⟩
  case hpParse => exact decodeInvertsEncode (.hpParse [0xAA, 0xBB]) rfl
  case rbWrite => exact decodeInvertsEncode (.rbWrite [0xA0, 0xA1, 0xA2]) rfl
  case caProduce => exact decodeInvertsEncode (.caProduce 4) rfl
  case csCfg => exact decodeInvertsEncode (.csCfg 0x011104D2) rfl
  case csStart => exact decodeInvertsEncode .csStart rfl
  case decP4N => exact decodeInvertsEncode (.decP4N 7) rfl

/-- Settles O6: an empty queue is no step, and a command cut short reads as incomplete, which leaves it queued. -/
theorem blockWaitsWithoutWholeCommand : Obligations.BlockWaitsWithoutWholeCommand := by
  unfold Obligations.BlockWaitsWithoutWholeCommand
  refine fun s => ⟨step_of_queue_nil, fun r rest op hi lo data hq hw hop hshort => ?_⟩
  exact step_of_decode_error hq hw (decode_of_short hop hshort)

/-- Settles O7: an `OP` byte that names nothing reads as unknown, whose rejection is the refusal. -/
theorem unknownOpIsRefused : Obligations.UnknownOpIsRefused := by
  unfold Obligations.UnknownOpIsRefused
  intro s r rest op more hq hw hop
  exact ⟨step_of_decode_error hq hw (decode_of_formatOf_eq_none (formatOf_eq_none hop) more), rfl, rfl⟩

/-- Settles O34: of the three outcomes of a decode the one whose condition the fields of `CFGR` meet. -/
theorem decodeBeyondCountFaults : Obligations.DecodeBeyondCountFaults := by
  unfold Obligations.DecodeBeyondCountFaults
  rintro n s _ _ _ rfl rfl rfl
  rw [ne_eq, ← fmtField_eq_zero, exec, execDmxDecode]
  rcases demux_cases s n.toNat with ⟨hzero, e⟩ | ⟨hfmt, _, e⟩ | ⟨hfmt, hlen, _⟩
  · exact ⟨fun _ => by rw [e], fun hfmt _ => absurd hzero hfmt⟩
  · exact ⟨fun hzero => absurd hzero hfmt, fun _ _ => by rw [e]⟩
  · refine ⟨fun hzero => absurd hzero hfmt, fun _ hover => ?_⟩
    rw [← groupSize_eq s.cfgr (mt (fmtField_eq_zero s.cfgr).2 hfmt)] at hover
    omega

end Sys2Proof.Machine
end

section
/-! PROOFS. The header parser family: HP.PARSE accepts exactly the acceptable frames, whatever stands beyond the captured bytes;
where an accepted payload lies, and what a frame that is not accepted does. -/

namespace Sys2Proof.Machine

/-! ### HP.PARSE by the numbers of R98 -/

theorem hdrByte_lt (frame : List Byte) (i : Nat) : hdrByte frame i < 256 := (frame.getD i 0#8).isLt

/-- The IP header is at most 15 words long (R133, R134). -/
theorem hdrUdp_bounds (frame : List Byte) : 14 ≤ hdrUdp frame ∧ hdrUdp frame ≤ 74 := by
  unfold hdrUdp; omega

/-- A frame that passes each test of HP.PARSE meets the conditions of R132 to R137: every field the tests read is captured by then
(R130, R131). -/
theorem acceptable_of_parseFrameWith {beyond : Nat → Byte} {port : BitVec 16} {frame : List Byte}
    (h : parseFrameWith beyond port frame ≠ none) : acceptable port.toNat frame := by
  rcases parseFrameWith_cases beyond port frame with hnone | ⟨h15, htype, hparse⟩
  · exact absurd hnone h
  rw [hparse, udpOffset_eq beyond (by omega)] at h
  rcases parseUdp_cases beyond port frame (hdrUdp frame) with hnone | ⟨hudp, hdport, hulen, hin, _⟩
  · exact absurd hnone h
  have hport : be16 beyond frame (hdrUdp frame + 2) = hdrPort frame := be16_eq beyond (by omega)
  have hlen : be16 beyond frame (hdrUdp frame + 4) = hdrUlen frame := be16_eq beyond (by omega)
  have hethertype : be16 beyond frame 12 = hdrByte frame 12 * 256 + hdrByte frame 13 := be16_eq beyond (by omega)
  have h13 : hdrByte frame 13 < 256 := hdrByte_lt frame 13
  exact ⟨h15, by omega, by omega, hudp, hport ▸ hdport, hlen ▸ hulen, hlen ▸ hin⟩

/-- HP.PARSE in one line: it accepts the acceptable frames and no other, and the bytes beyond the frame have no part in it
(R130, R131, R138). -/
theorem parseFrameWith_eq (beyond : Nat → Byte) (port : BitVec 16) (frame : List Byte) :
    parseFrameWith beyond port frame =
      if acceptable port.toNat frame then some (hdrUdp frame + 8, hdrUlen frame - 8) else none := by
  split
  · next h => exact parseFrameWith_of_acceptable beyond h
  · next h => exact not_not.1 (mt acceptable_of_parseFrameWith h)

theorem parseFrameWith_eq_none {beyond : Nat → Byte} {port : BitVec 16} {frame : List Byte} :
    parseFrameWith beyond port frame = none ↔ ¬ acceptable port.toNat frame := by
  rw [parseFrameWith_eq]; exact ite_eq_right_iff.trans (by simp only [reduceCtorEq, imp_false])

theorem parseFrame_eq_some {port : BitVec 16} {frame : List Byte} {off len : Nat} :
    parseFrame port frame = some (off, len) ↔
      acceptable port.toNat frame ∧ hdrUdp frame + 8 = off ∧ hdrUlen frame - 8 = len := by
  rw [parseFrame, parseFrameWith_eq, Option.ite_none_right_eq_some, Option.some.injEq, Prod.mk.injEq]

/-! ### The two operations that parse a frame -/

/-- HP.PARSE answers what the frame and `PORT` decide and changes nothing else (R130, R140). -/
theorem exec_hpParse (frame : List Byte) (s : State) :
    exec (.hpParse frame) s = .next (s.answer (if acceptable (s.cfgr.toNat % 65536) frame
      then .accept (hdrUdp frame + 8) (hdrUlen frame - 8) else .na)) := by
  rw [exec, execHpParse, parseFrame, parseFrameWith_eq, portField_toNat, reply]
  split <;> rfl

/-- In either session state a frame that is not acceptable is discarded with no effect (R146, R215). -/
theorem exec_csFrame_of_not_acceptable {frame : List Byte} {s : State} (h : ¬ acceptable (s.cfgr.toNat % 65536) frame) :
    exec (.csFrame frame) s = .next (s.answer .none) := by
  rw [exec]
  rcases execCsFrame_cases frame s with ⟨_, e⟩ | ⟨_, _, e⟩ | ⟨_, off, len, hp, _⟩
  · exact e
  · exact e
  · obtain ⟨hacc, _, _⟩ := parseFrame_eq_some.1 hp
    exact absurd (portField_toNat s.cfgr ▸ hacc) h

/-! ### The obligations -/

/-- Settles O14: the answer of HP.PARSE, for a frame that is acceptable and for one that is not. -/
theorem parseAcceptsExactlyGoodFrames : Obligations.ParseAcceptsExactlyGoodFrames := by
  unfold Obligations.ParseAcceptsExactlyGoodFrames
  refine fun frame s => ⟨fun h => ?accepted, fun h => ?rejected⟩
  case accepted => rw [exec_hpParse, if_pos h]; rfl
  case rejected => rw [exec_hpParse, if_neg h]; rfl

/-- Settles O15: what HP.PARSE accepts is told by the captured bytes alone, and below each cut-off point a frame is not
acceptable. -/
theorem parseReadsCapturedBytesOnly : Obligations.ParseReadsCapturedBytesOnly := by
  unfold Obligations.ParseReadsCapturedBytesOnly
  intro port frame beyond beyond'
  refine ⟨?beyond, fun hcut => ?ethernet, fun hcut => ?ipByte, fun hcut => ?udp⟩
  case beyond => rw [parseFrameWith_eq, parseFrameWith_eq]
  all_goals
    refine parseFrameWith_eq_none.2 ?_
    rintro ⟨h15, _, _, hudp, _⟩
    omega

/-- Settles O16: the offset is `u + 8` and the length `ulen - 8`, and `u` is 14 to 74. -/
theorem acceptedPayloadLiesInFrame : Obligations.AcceptedPayloadLiesInFrame := by
  unfold Obligations.AcceptedPayloadLiesInFrame
  intro port frame off len h
  obtain ⟨hlow, hin⟩ := parseFrame_inside h
  obtain ⟨⟨_, _, _, _, _, hulen, _⟩, hoff, hlen⟩ := parseFrame_eq_some.1 h
  obtain ⟨_, hudp⟩ := hdrUdp_bounds frame
  exact ⟨hlow, by omega, hin, by omega, payloadOf_length hin, by omega⟩

/-- Settles O45: a frame for another port is not acceptable, nor is one that HP.PARSE answers with `NA`. -/
theorem otherPortsNeverEnterBuffer : Obligations.OtherPortsNeverEnterBuffer := by
  unfold Obligations.OtherPortsNeverEnterBuffer
  refine fun frame s => ⟨fun hother => ?otherPort, fun hna => ?notApplicable⟩
  case otherPort =>
    refine exec_csFrame_of_not_acceptable ?_
    rintro ⟨_, _, _, _, hport, _⟩
    exact hother hport
  case notApplicable =>
    refine exec_csFrame_of_not_acceptable fun hacc => ?_
    rw [exec_hpParse, if_pos hacc, Host.Outcome.next.injEq] at hna
    cases congrArg State.resp hna

end Sys2Proof.Machine
end

section
/-! PROOFS. The ring buffer family: where a write stores its bytes and what it leaves, the reads and RB.CONSUME, decoders that run
past the unconsumed bytes, and the bytes read back over any sequence of operations. -/

namespace Sys2Proof.Machine

/-! ### A write, whichever operation offers it -/

/-- RB.WRITE of a payload that fits takes it and answers `Ok` (R150, R152). -/
theorem exec_rbWrite_of_fits {bytes : List Byte} {s : State} (hfit : bytes.length ≤ s.cap - s.count) :
    exec (.rbWrite bytes) s = .next ((s.append bytes).answer .ok) := by
  rcases ringWrite_cases s bytes with ⟨hfull, _⟩ | ⟨_, e⟩
  · omega
  · rw [exec, execRbWrite, e]; rfl

/-- RB.WRITE of a payload that does not fit counts it and answers `Fail` (R150, R151). -/
theorem exec_rbWrite_of_overflows {bytes : List Byte} {s : State} (hfull : s.cap - s.count < bytes.length) :
    exec (.rbWrite bytes) s = .next (s.bumpOvf.answer .fail) := by
  rcases ringWrite_cases s bytes with ⟨_, e⟩ | ⟨hfit, _⟩
  · rw [exec, execRbWrite, e]; rfl
  · omega

/-- Taking nothing changes nothing: `WR` is already a modulo-`C` index (R154). -/
theorem State.append_nil {s : State} (hwr : s.wr < s.cap) : s.append [] = s := by
  simp only [State.append, ringStore, List.length_nil, Nat.add_zero, Nat.mod_eq_of_lt hwr]

/-- Taking exactly the free space brings `WR` round to `RD` (R28, R154). -/
theorem Inv.append_wr_of_full {s : State} (hs : Inv s) {bytes : List Byte} (hlen : bytes.length = s.cap - s.count) :
    (s.append bytes).wr = s.rd := by
  have hle : s.count ≤ s.cap := hs.countLe
  calc (s.wr + bytes.length) % s.cap
      = (s.rd + (s.count + bytes.length)) % s.cap := by rw [hs.wrEq, ring_index_add]
    _ = (s.rd + s.cap) % s.cap := by rw [hlen, Nat.add_sub_cancel' hle]
    _ = s.rd := by rw [Nat.add_mod_right, Nat.mod_eq_of_lt hs.rdLt]

/-- A payload that fits overwrites no unconsumed byte (R152). -/
theorem streamByte_append {s : State} (hs : Inv s) {bytes : List Byte} (hfit : bytes.length ≤ s.cap - s.count) {k : Nat}
    (hk : k < s.count) : streamByte (s.append bytes) k = streamByte s k := by
  have hread : rbRead (s.append bytes) k = rbRead s k := (readsAlike_append hs hfit).read k hk
  have hk' : k < (s.append bytes).count := Nat.lt_add_right _ hk
  rwa [rbRead_ok hk, rbRead_ok hk', Except.ok.injEq] at hread

/-- Byte `k` of a payload inside the frame, as a number. -/
theorem payloadOf_getElem_toNat {frame : List Byte} {off len k : Nat} (hk : k < (payloadOf frame off len).length) :
    (payloadOf frame off len)[k].toNat = hdrByte frame (off + k) := by
  have hin : off + k < frame.length := by
    simp only [payloadOf, List.length_take, List.length_drop] at hk; omega
  simp [payloadOf, hdrByte, hin]

/-- While Capturing an acceptable frame offers the `ulen - 8` bytes from `u + 8` on (R138, R215). -/
theorem framePayload_bytes {frame : List Byte} {s : State} (hrun : s.session = .capturing)
    (h : acceptable (s.cfgr.toNat % 65536) frame) :
    ∃ bytes, framePayload frame s = some bytes ∧ bytes.length = hdrUlen frame - 8 ∧
      ∀ k (hk : k < bytes.length), bytes[k].toNat = hdrByte frame (hdrUdp frame + 8 + k) := by
  have hpayload := framePayload_of_acceptable hrun h
  obtain ⟨_, _, _, _, _, _, hin⟩ := h
  exact ⟨_, hpayload, payloadOf_length (by omega), fun _ hk => payloadOf_getElem_toNat hk⟩

/-! ### The two-part copy (R153) -/

/-- A store of two pieces is the store of the first and, behind it, of the second. -/
theorem ringStore_append (cap : Nat) (m : Memory) (wr : Nat) (as bs : List Byte) :
    ringStore cap m wr (as ++ bs) = ringStore cap (ringStore cap m wr as) (wr + as.length) bs := by
  induction as generalizing m wr with
  | nil => rfl
  | cons a as ih =>
    rw [List.cons_append, ringStore, ringStore, ih, List.length_cons, Nat.add_right_comm, Nat.add_assoc wr]

/-- A whole turn further on is the same index. -/
theorem ringStore_add_cap (cap : Nat) (m : Memory) (wr : Nat) (bytes : List Byte) :
    ringStore cap m (wr + cap) bytes = ringStore cap m wr bytes := by
  induction bytes generalizing m wr with
  | nil => rfl
  | cons b rest ih => rw [ringStore, ringStore, Nat.add_mod_right, Nat.add_right_comm, ih]

/-- A store that does not reach the end of the buffer is one contiguous copy. -/
theorem ringStore_eq_storeFrom {cap : Nat} (m : Memory) {wr : Nat} {bytes : List Byte} (h : wr + bytes.length ≤ cap) :
    ringStore cap m wr bytes = storeFrom m wr bytes := by
  induction bytes generalizing m wr with
  | nil => rfl
  | cons b rest ih =>
    rw [List.length_cons] at h
    rw [ringStore, storeFrom, Nat.mod_eq_of_lt (by omega), ih _ (by omega)]

/-! ### RB.CONSUME -/

/-- RB.CONSUME within `COUNT` moves the read cursor and answers nothing (R157, R158). -/
theorem exec_rbConsume_of_le {len : Word} {s : State} (hlen : len.toNat ≤ s.count) :
    exec (.rbConsume len) s = .next ((s.advance len.toNat).answer .none) := by
  rcases ringConsume_cases s len.toNat with ⟨hlt, _⟩ | ⟨_, e⟩
  · omega
  · rw [exec, execRbConsume, e]; rfl

/-- RB.CONSUME beyond `COUNT` has no meaning (R159). -/
theorem exec_rbConsume_of_lt {len : Word} {s : State} (hlen : s.count < len.toNat) :
    exec (.rbConsume len) s = .fault .consumeBeyondCount := by
  rcases ringConsume_cases s len.toNat with ⟨_, e⟩ | ⟨hle, _⟩
  · rw [exec, execRbConsume, e]
  · omega

/-! ### Reads beyond the unconsumed bytes (R156) -/

section
variable {s : State} {p : Nat}

theorem rbRead_error (h : s.count ≤ p) : rbRead s p = .error .readBeyondCount := by
  rcases rbRead_cases s p with ⟨hlt, _⟩ | ⟨_, e⟩
  · omega
  · exact e

/-- Reading one byte can stop in one way only. -/
theorem eq_readBeyondCount_of_rbRead {f : Fault} (h : rbRead s p = .error f) : f = .readBeyondCount := by
  rcases rbRead_cases s p with ⟨_, e⟩ | ⟨_, e⟩ <;> rw [e] at h <;> cases h
  rfl

/-- If what comes first can only stop at a byte beyond `COUNT`, and what comes after it stops there whatever came first, then the
two together stop there. -/
theorem bind_readBeyondCount {α β : Type} {x : Except Fault α} {cont : α → Except Fault β}
    (hx : ∀ f, x = .error f → f = .readBeyondCount) (hcont : ∀ a, cont a = .error .readBeyondCount) :
    (x >>= cont) = .error .readBeyondCount := by
  cases x with
  | error f => rw [hx f rfl]; rfl
  | ok a => exact hcont a

/-- A read of a byte beyond `COUNT` stops whatever follows it. -/
theorem rbRead_bind_error {β : Type} {cont : Byte → Except Fault β} (h : s.count ≤ p) :
    (rbRead s p >>= cont) = .error .readBeyondCount := by
  rw [rbRead_error h]; rfl

theorem itemPb_error (h : s.count < p + 2) :
    itemPbN s p = .error .readBeyondCount ∧ itemPbS s p = .error .readBeyondCount := by
  have hlast : s.count ≤ p + 1 := by omega
  constructor
  all_goals exact bind_readBeyondCount (fun _ => eq_readBeyondCount_of_rbRead) fun _ => rbRead_bind_error hlast

theorem itemP4_error (h : s.count < p + 1) :
    itemP4N s p = .error .readBeyondCount ∧ itemP4S s p = .error .readBeyondCount := by
  have hlast : s.count ≤ p := by omega
  exact ⟨rbRead_bind_error hlast, rbRead_bind_error hlast⟩

theorem le32_error (h : s.count < p + 4) : le32 s p = .error .readBeyondCount := by
  have hlast : s.count ≤ p + 3 := by omega
  exact bind_readBeyondCount (fun _ => eq_readBeyondCount_of_rbRead) fun _ =>
    bind_readBeyondCount (fun _ => eq_readBeyondCount_of_rbRead) fun _ =>
    bind_readBeyondCount (fun _ => eq_readBeyondCount_of_rbRead) fun _ => rbRead_bind_error hlast

/-- Reading one pattern can stop in one way only. -/
theorem eq_readBeyondCount_of_le32 {f : Fault} (h : le32 s p = .error f) : f = .readBeyondCount := by
  by_cases hin : p + 4 ≤ s.count
  · rw [le32_ok hin] at h; cases h
  · rw [le32_error (by omega)] at h; cases h; rfl

theorem itemPf_error (h : s.count < p + 8) :
    itemPfN s p = .error .readBeyondCount ∧ itemPfS s p = .error .readBeyondCount := by
  have hlast : le32 s (p + 4) = .error .readBeyondCount := le32_error (by omega)
  constructor
  all_goals exact bind_readBeyondCount (fun _ => eq_readBeyondCount_of_le32) fun _ => by rw [hlast]; rfl

end

/-! ### The ledger of R161 -/

/-- The ledger accounts for the buffer: what was written, less what was consumed, is the stream of unconsumed bytes. -/
structure Ledger.Accounts (l : Ledger) (s : State) : Prop where
  consumedLe : l.consumed ≤ l.written.length
  streamEq : stream s = l.written.drop l.consumed

section
variable {l : Ledger} {s t : State}

theorem Ledger.Accounts.count_eq (h : l.Accounts s) : s.count = l.written.length - l.consumed := by
  rw [← stream_length, h.streamEq, List.length_drop]

/-- What is read back is what was written, in order (R161). -/
theorem Ledger.Accounts.rbRead_eq (h : l.Accounts s) {k : Nat} (hk : k < s.count) :
    rbRead s k = .ok (l.written.getD (l.consumed + k) 0) := by
  have hin : l.consumed + k < l.written.length := by have := h.count_eq; omega
  rw [rbRead_ok hk, ← stream_get s hk, List.getD_eq_getElem _ _ hin]
  simp only [h.streamEq, List.getElem_drop]

/-- The cleared ledger accounts for an empty buffer. -/
theorem accounts_of_stream_eq_nil (h : stream s = []) : Ledger.Accounts { written := [], consumed := 0 } s :=
  ⟨le_rfl, h⟩

theorem Ledger.Accounts.keep (h : l.Accounts s) (hstream : stream t = stream s) : l.Accounts t :=
  ⟨h.consumedLe, hstream.trans h.streamEq⟩

/-- A taken payload is entered behind the bytes written before it. -/
theorem Ledger.Accounts.write (h : l.Accounts s) {bytes : List Byte} (hstream : stream t = stream s ++ bytes) :
    Ledger.Accounts { l with written := l.written ++ bytes } t where
  consumedLe := h.consumedLe.trans (by simp)
  streamEq := by rw [hstream, h.streamEq, List.drop_append_of_le_length h.consumedLe]

/-- Consumed bytes are counted. -/
theorem Ledger.Accounts.consume (h : l.Accounts s) {len : Nat} (hlen : len ≤ s.count)
    (hstream : stream t = (stream s).drop len) : Ledger.Accounts { l with consumed := l.consumed + len } t where
  consumedLe := by have := h.count_eq; have := h.consumedLe; change l.consumed + len ≤ l.written.length; omega
  streamEq := by rw [hstream, h.streamEq, List.drop_drop]

/-- A read is not entered (R75). -/
theorem ledgerNext_of_isRead {i : Instr} (h : isRead i = true) (s t : State) (l : Ledger) : ledgerNext i s t l = l := by
  cases i with
  | rbWrite _ | rbConsume _ | dmxDecode _ | caProduce _ | csCfg _ | csFrame _ => cases h
  | csStart | csStop | csReset => cases h
  | _ => rfl

/-- A payload is entered just where it fits, whichever operation offers it: RB.WRITE tells by its answer, CS.FRAME by the count
(R161). -/
theorem ledgerNext_of_offered {i : Instr} {bytes : List Byte} (ho : offered i s = some bytes) (h : exec i s = .next t)
    (l : Ledger) :
    ledgerNext i s t l = if bytes.length ≤ s.cap - s.count then { l with written := l.written ++ bytes } else l := by
  cases i with
  | rbWrite b =>
    cases ho
    by_cases hfit : bytes.length ≤ s.cap - s.count
    · rw [exec_rbWrite_of_fits hfit] at h
      cases h
      rw [if_pos hfit]; rfl
    · rw [exec_rbWrite_of_overflows (by omega)] at h
      cases h
      rw [if_neg hfit]; rfl
  | csFrame frame =>
    simp only [offered] at ho
    simp only [ledgerNext, ho]
    rcases exec_offered (i := .csFrame frame) ho h with ⟨hfull, _, rfl⟩ | ⟨hfit, _, rfl⟩
    · rw [if_neg (show ¬ bytes.length ≤ s.cap - s.count by omega)]
      exact if_neg (show ¬ s.count = s.count + bytes.length by omega)
    · rw [if_pos hfit]
      exact if_pos rfl
  | _ => cases ho

/-- The groups CA.PRODUCE says it delivered are those it took: their number is at most the 32-bit one requested (R195). -/
theorem toNat_ofNat_deliverable (s : State) (n : Word) :
    (BitVec.ofNat 32 (deliverable s n.toNat)).toNat = deliverable s n.toNat := by
  have hle : deliverable s n.toNat ≤ n.toNat := Nat.min_le_left ..
  rw [BitVec.toNat_ofNat, Nat.mod_eq_of_lt (hle.trans_lt n.isLt)]

/-- Where no payload is offered, an effect keeps the account. -/
theorem OpEffect.accounts {i : Instr} {u : State} {r : Response} (hu : OpEffect s i r u) (ho : offered i s = none)
    (hl : l.Accounts s) : (ledgerNext i s (u.answer r) l).Accounts (u.answer r) := by
  cases hu with
  | read _ hread => rw [ledgerNext_of_isRead hread]; exact hl.keep rfl
  | overflow _ ho' _ | append _ ho' _ => rw [ho] at ho'; cases ho'
  | discard _ => simp only [offered] at ho; simp only [ledgerNext, ho]; exact hl.keep rfl
  | consume hlen => exact hl.consume hlen (stream_advance s _)
  | decode o hlen => exact hl.consume hlen (stream_advance (s.withOut o) _)
  | produce o _ hlen =>
    simp only [ledgerNext, State.answer_resp, toNat_ofNat_deliverable]
    exact hl.consume hlen (stream_advance (s.withOut o) _)
  | produceNone _ _ => exact hl.consume (by simp) (by simp)
  | configure _ _ _ | reset => exact accounts_of_stream_eq_nil rfl
  | produceRefused _ | cfgRefused _ | cfgRejected _ _ _ => exact hl.keep rfl
  | startRefused _ _ | startFailed _ _ _ | start _ _ _ | stopRefused _ | stopFailed _ _ | stop _ _ => exact hl.keep rfl

/-- Every operation keeps the account (R161). -/
theorem exec_accounts {i : Instr} (h : exec i s = .next t) (hs : Inv s) (hl : l.Accounts s) :
    (ledgerNext i s t l).Accounts t := by
  cases ho : offered i s with
  | some bytes =>
    have hstream : stream t = fifoOffer s.cap (stream s) bytes :=
      (ringBufferRefinesByteQueue i s t hs h).trans (fifoNext_of_offered ho _)
    rw [fifoOffer, stream_length] at hstream
    rw [ledgerNext_of_offered ho h]
    split at hstream
    · next hfit => rw [if_pos hfit]; exact hl.write hstream
    · next hfull => rw [if_neg hfull]; exact hl.keep hstream
  | none =>
    obtain ⟨u, r, hu, rfl⟩ := exec_opEffect h
    exact hu.accounts ho hl

/-- A sequence of operations that does not stop is its first operation and the sequence after it. -/
theorem runLedger_cons {i : Instr} {rest : List Instr} {r : State × Ledger}
    (h : runLedger (i :: rest) s l = some r) :
    ∃ u, exec i s = .next u ∧ runLedger rest u (ledgerNext i s u l) = some r := by
  rw [runLedger] at h
  split at h
  · next u hu => exact ⟨u, hu, h⟩
  · cases h
  · cases h

/-- So does every sequence of operations that does not stop. -/
theorem runLedger_accounts {ops : List Instr} {l' : Ledger} (h : runLedger ops s l = some (t, l')) (hs : Inv s)
    (hl : l.Accounts s) : l'.Accounts t := by
  induction ops generalizing s l with
  | nil => cases h; exact hl
  | cons i rest ih =>
    obtain ⟨u, hu, hrest⟩ := runLedger_cons h
    exact ih hrest (exec_inv hu hs) (exec_accounts hu hs hl)

end

/-! ### The obligations -/

/-- Settles O17: a write that fits is an append, whose stores are told index by index. -/
theorem writeThatFitsIsStored : Obligations.WriteThatFitsIsStored := by
  unfold Obligations.WriteThatFitsIsStored
  intro bytes s _ hfit
  refine ⟨_, exec_rbWrite_of_fits hfit, rfl, fun k hk => ?stored, fun a ha => ?other, fun hs k hk => ?unconsumed⟩
  case stored => exact memByte_append_stored s bytes (by omega) hk
  case other => exact memByte_append_other s bytes fun k hk => (ha k hk).symm
  case unconsumed => exact streamByte_append hs hfit hk

/-- Settles O19: nothing always fits, the free space just fits, and more than `C` never does. -/
theorem writeCornerCases : Obligations.WriteCornerCases := by
  unfold Obligations.WriteCornerCases
  refine fun s hs => ⟨?nothing, fun bytes hlen => ?freeSpace, fun bytes hlong => ?tooLong⟩
  case nothing => rw [exec_rbWrite_of_fits (Nat.zero_le _), State.append_nil hs.wrLt]; rfl
  case freeSpace =>
    refine ⟨_, exec_rbWrite_of_fits hlen.le, rfl, ?_, hs.append_wr_of_full hlen⟩
    exact (congrArg (s.count + ·) hlen).trans (Nat.add_sub_cancel' hs.countLe)
  case tooLong => exact ⟨_, exec_rbWrite_of_overflows (by omega), rfl⟩

/-- Settles O20: either the payload does not pass the end of the buffer, or its tail segment ends there and its head segment begins
a whole turn on from index 0. -/
theorem storeIsTwoPartCopy : Obligations.StoreIsTwoPartCopy := by
  unfold Obligations.StoreIsTwoPartCopy twoPartStore
  intro cap m wr bytes hwr hlen
  by_cases hfit : bytes.length ≤ cap - wr
  · rw [Nat.min_eq_left hfit, List.take_length, List.drop_length, ringStore_eq_storeFrom m (by omega)]; rfl
  · rw [Nat.min_eq_right (show cap - wr ≤ bytes.length by omega)]
    have htail : (bytes.take (cap - wr)).length = cap - wr := by rw [List.length_take]; omega
    have hhead : 0 + (bytes.drop (cap - wr)).length ≤ cap := by rw [List.length_drop]; omega
    calc ringStore cap m wr bytes
        = ringStore cap m wr (bytes.take (cap - wr) ++ bytes.drop (cap - wr)) := by rw [List.take_append_drop]
      _ = ringStore cap (ringStore cap m wr (bytes.take (cap - wr))) (0 + cap) (bytes.drop (cap - wr)) := by
        rw [ringStore_append, htail, Nat.add_sub_cancel' hwr.le, Nat.zero_add]
      _ = storeFrom (storeFrom m wr (bytes.take (cap - wr))) 0 (bytes.drop (cap - wr)) := by
        rw [ringStore_add_cap, ringStore_eq_storeFrom _ hhead, ringStore_eq_storeFrom m (by omega)]

/-- Settles O25: the cleared ledger accounts for the empty buffer, and every operation keeps the account. -/
theorem bytesReadBackEqualBytesWritten : Obligations.BytesReadBackEqualBytesWritten := by
  unfold Obligations.BytesReadBackEqualBytesWritten
  intro ops s t l hs hempty h
  have hl : l.Accounts t := runLedger_accounts h hs (accounts_of_stream_eq_nil (stream_of_count_zero hempty))
  exact ⟨hl.consumedLe, hl.count_eq, fun k hk => hl.rbRead_eq hk⟩

/-- Settles O44: while Capturing an acceptable frame whose payload fits is an append of that payload. -/
theorem frameStoresPayloadBytes : Obligations.FrameStoresPayloadBytes := by
  unfold Obligations.FrameStoresPayloadBytes
  intro frame s len hrun hframe hlen _ hfit
  obtain ⟨bytes, hpayload, hbytes, hget⟩ := framePayload_bytes hrun hframe
  obtain rfl : bytes.length = len := hbytes.trans hlen.symm
  refine ⟨_, execCsFrame_of_fits hpayload hfit, rfl, fun k hk => ?stored, fun a ha => ?other⟩
  case stored =>
    have hstored : memByte (s.append bytes) ((s.wr + k) % s.cap) = bytes[k] := memByte_append_stored s bytes (by omega) hk
    exact (congrArg BitVec.toNat hstored).trans (hget k hk)
  case other => exact memByte_append_other s bytes fun k hk => (ha k hk).symm

/-- Settles O21: `COUNT` and `OVF` are registers 2 and 3. -/
theorem availAndOvfAnswerCounters : Obligations.AvailAndOvfAnswerCounters := by
  unfold Obligations.AvailAndOvfAnswerCounters
  refine ⟨decodeInvertsEncode .rbAvail rfl, decodeInvertsEncode .rbOvf rfl, fun s => ⟨?avail, rfl, rfl⟩⟩
  case avail => exact ⟨word32 s.count, rfl, rfl, word32_toNat⟩

/-- Settles O22: of the two outcomes of a consume the one for bytes that are there. -/
theorem consumeMovesReadCursor : Obligations.ConsumeMovesReadCursor := by
  unfold Obligations.ConsumeMovesReadCursor
  exact fun _ _ hlen => exec_rbConsume_of_le hlen

/-- Settles O23: of the two outcomes of a consume the one for bytes that are not all there. -/
theorem consumeBeyondCountFaults : Obligations.ConsumeBeyondCountFaults := by
  unfold Obligations.ConsumeBeyondCountFaults
  exact fun _ _ hlen => exec_rbConsume_of_lt hlen

/-- Settles O31: an item stops at its last byte if not before, and a decoder called directly stops with its item. -/
theorem decoderBeyondCountFaults : Obligations.DecoderBeyondCountFaults := by
  unfold Obligations.DecoderBeyondCountFaults
  refine fun p s => ⟨fun h => ?packedByte, fun h => ?packed4Bit, fun h => ?packedFloat⟩
  case packedByte => exact (itemPb_error h).imp (congrArg (replyItem s)) (congrArg (replyItem s))
  case packed4Bit => exact (itemP4_error h).imp (congrArg (replyItem s)) (congrArg (replyItem s))
  case packedFloat => exact (itemPf_error h).imp (congrArg (replyItem s)) (congrArg (replyItem s))

end Sys2Proof.Machine
end

section
/-! PROOFS. The sample demux family: what each decoder answers, the values it makes of the bytes, and that DMX.DECODE writes what
the decoder selected by `SEL` answers. -/

namespace Sys2Proof.Machine

/-! ### Values made of bytes -/

/-- `s8` is the two's-complement reading (R12, R175). -/
theorem s8_eq_toInt (v : Byte) : s8 v = v.toInt := by
  have hlt : v.toNat < 2 ^ 8 := v.isLt
  rw [s8, BitVec.toInt_eq_toNat_cond]
  split <;> split <;> omega

/-- The equivalent form of R176: `nib(c) = 2 * sext4(c) + 1`. -/
theorem nib_eq_toInt (c : BitVec 4) : nib c = 2 * c.toInt + 1 := by
  have hlt : c.toNat < 2 ^ 4 := c.isLt
  rw [nib, BitVec.toInt_eq_toNat_cond]
  split <;> split <;> omega

/-- A byte put behind a bit string moves the string up by 256. -/
theorem toNat_append_byte {n : Nat} (x : BitVec n) (b : Byte) : (x ++ b).toNat = x.toNat * 2 ^ 8 + b.toNat := by
  rw [BitVec.toNat_append, ← Nat.shiftLeft_add_eq_or_of_lt b.isLt, Nat.shiftLeft_eq]

/-- The lowest stream position is least significant (R67). -/
theorem leWord_toNat (b0 b1 b2 b3 : Byte) :
    (leWord b0 b1 b2 b3).toNat = b0.toNat + b1.toNat * 2 ^ 8 + b2.toNat * 2 ^ 16 + b3.toNat * 2 ^ 24 := by
  rw [leWord, toNat_append_byte, toNat_append_byte, toNat_append_byte]
  ring

/-- The four bytes of a pattern, lowest first, are that pattern again (R182). -/
theorem leWord_extractLsb' (w : Word) :
    leWord (w.extractLsb' 0 8) (w.extractLsb' 8 8) (w.extractLsb' 16 8) (w.extractLsb' 24 8) = w := by
  apply BitVec.eq_of_toNat_eq
  have hlt : w.toNat < 2 ^ 32 := w.isLt
  simp only [leWord_toNat, BitVec.extractLsb'_toNat, Nat.shiftRight_eq_div_pow]
  omega

/-- The four bytes of a pattern, lowest first (R67). -/
def patternBytes (w : Word) : List Byte := [w.extractLsb' 0 8, w.extractLsb' 8 8, w.extractLsb' 16 8, w.extractLsb' 24 8]

/-! ### What each decoder answers -/

/-- The pattern in the four stream bytes from offset `p` on (R99). -/
def streamWord (s : State) (p : Nat) : Word :=
  leWord (streamByte s p) (streamByte s (p + 1)) (streamByte s (p + 2)) (streamByte s (p + 3))

section
variable {s : State} {p : Nat}

/-- PackedByte non-swapped on two unconsumed bytes: the second is real (R173). -/
theorem exec_decPbN_of_le (h : p + 2 ≤ s.count) :
    exec (.decPbN p) s = .next (s.answer (.sample
      { re := f32OfInt (streamByte s (p + 1)).toInt, im := f32OfInt (streamByte s p).toInt })) := by
  rw [exec, execDecPbN, itemPbN_ok h, s8_eq_toInt, s8_eq_toInt]; rfl

/-- PackedByte swapped on two unconsumed bytes: the first is real (R174). -/
theorem exec_decPbS_of_le (h : p + 2 ≤ s.count) :
    exec (.decPbS p) s = .next (s.answer (.sample
      { re := f32OfInt (streamByte s p).toInt, im := f32OfInt (streamByte s (p + 1)).toInt })) := by
  rw [exec, execDecPbS, itemPbS_ok h, s8_eq_toInt, s8_eq_toInt]; rfl

/-- PackedFloat non-swapped on eight unconsumed bytes: the first pattern is real (R180). -/
theorem exec_decPfN_of_le {f0 f1 : Word} (h : p + 8 ≤ s.count) (h0 : streamWord s p = f0) (h1 : streamWord s (p + 4) = f1) :
    exec (.decPfN p) s = .next (s.answer (.sample { re := f0, im := f1 })) := by
  subst h0 h1
  rw [exec, execDecPfN, itemPfN_ok h]; rfl

/-- PackedFloat swapped on eight unconsumed bytes: the second pattern is real (R181). -/
theorem exec_decPfS_of_le {f0 f1 : Word} (h : p + 8 ≤ s.count) (h0 : streamWord s p = f0) (h1 : streamWord s (p + 4) = f1) :
    exec (.decPfS p) s = .next (s.answer (.sample { re := f1, im := f0 })) := by
  subst h0 h1
  rw [exec, execDecPfS, itemPfS_ok h]; rfl

end

/-! ### A write into an empty buffer -/

/-- The stream is then the bytes written (R161). -/
theorem streamByte_append_of_empty {s : State} (hs : Inv s) (hempty : s.count = 0) {bytes : List Byte}
    (hfit : bytes.length ≤ s.cap) {k : Nat} (hk : k < bytes.length) : streamByte (s.append bytes) k = bytes[k] := by
  have hstream : stream (s.append bytes) = bytes := by
    rw [stream_append hs.wrEq (by omega), stream_of_count_zero hempty, List.nil_append]
  have hk' : k < (s.append bytes).count := by rw [State.append_count]; omega
  rw [← stream_get _ hk']
  simp only [hstream]

/-- A pattern is then made of four of the bytes written. -/
theorem streamWord_append_of_empty {s : State} (hs : Inv s) (hempty : s.count = 0) {bytes : List Byte}
    (hfit : bytes.length ≤ s.cap) {p : Nat} (hp : p + 4 ≤ bytes.length) :
    streamWord (s.append bytes) p = leWord bytes[p] bytes[p + 1] bytes[p + 2] bytes[p + 3] := by
  simp (disch := omega) only [streamWord, streamByte_append_of_empty hs hempty hfit]

/-- Two patterns written lowest byte first are then the first two patterns of the stream. -/
theorem streamWord_append_patternBytes {s : State} (hs : Inv s) (hempty : s.count = 0) (hcap : 8 ≤ s.cap) (a b : Word) :
    streamWord (s.append (patternBytes a ++ patternBytes b)) 0 = a ∧
      streamWord (s.append (patternBytes a ++ patternBytes b)) 4 = b := by
  have hlen : (patternBytes a ++ patternBytes b).length = 8 := rfl
  have hfit : (patternBytes a ++ patternBytes b).length ≤ s.cap := hlen.trans_le hcap
  rw [streamWord_append_of_empty hs hempty hfit (by rw [hlen]; decide), streamWord_append_of_empty hs hempty hfit hlen.ge]
  exact ⟨leWord_extractLsb' a, leWord_extractLsb' b⟩

/-! ### The decoder selected by `SEL` -/

/-- With a format, `SEL` is one of the six selectors of R116. -/
theorem selOf_cases {w : Word} (hf : fmtField w ≠ 0#2) :
    selOf w = 0b010#3 ∨ selOf w = 0b011#3 ∨ selOf w = 0b100#3 ∨ selOf w = 0b101#3 ∨ selOf w = 0b110#3 ∨ selOf w = 0b111#3 := by
  unfold selOf
  revert hf; generalize fmtField w = f; generalize swapField w = x; revert f x; decide

/-- With a format there is a decoder that `SEL` names, and called at offset `p` it answers the item there (R116, R172). -/
theorem exists_decoder_exec_eq_decodeItem {s : State} (hf : fmtField s.cfgr ≠ 0#2) (p : Nat) :
    ∃ d, decode (.decoder (selOf s.cfgr) p) = .ok d ∧ exec d s = replyItem s (decodeItem s p) := by
  unfold decodeItem
  rcases selOf_cases hf with h | h | h | h | h | h <;> rw [h]
  · exact ⟨.decPbN p, rfl, rfl⟩
  · exact ⟨.decPbS p, rfl, rfl⟩
  · exact ⟨.decP4N p, rfl, rfl⟩
  · exact ⟨.decP4S p, rfl, rfl⟩
  · exact ⟨.decPfN p, rfl, rfl⟩
  · exact ⟨.decPfS p, rfl, rfl⟩

/-- Where the item at `p` decodes, the decoder that `SEL` names answers it. -/
theorem exists_decoder_of_decodeItem {s : State} {p : Nat} {v : Sample} (hf : fmtField s.cfgr ≠ 0#2)
    (hv : decodeItem s p = .ok v) :
    ∃ d, decode (.decoder (selOf s.cfgr) p) = .ok d ∧ exec d s = .next (s.answer (.sample v)) := by
  obtain ⟨d, hd, he⟩ := exists_decoder_exec_eq_decodeItem hf p
  rw [hv] at he
  exact ⟨d, hd, he⟩

/-! ### The obligations -/

/-- Settles O28: the two patterns are the stream words at `p` and `p + 4`. -/
theorem packedFloatDecodes : Obligations.PackedFloatDecodes := by
  unfold Obligations.PackedFloatDecodes
  refine fun p s => ⟨decodeInvertsEncode (.decPfN p) rfl, decodeInvertsEncode (.decPfS p) rfl, fun h => ?decodes⟩
  case decodes =>
    exact ⟨streamWord s p, streamWord s (p + 4), leWord_toNat .., leWord_toNat ..,
      exec_decPfN_of_le h rfl rfl, exec_decPfS_of_le h rfl rfl⟩

/-- Settles O32: the stream after the write is the eight bytes written, and four bytes of a pattern are that pattern. -/
theorem packedFloatRoundTrip : Obligations.PackedFloatRoundTrip := by
  unfold Obligations.PackedFloatRoundTrip
  intro s a b hs hempty hcap
  have hroom : 8 ≤ s.cap - s.count := by omega
  have hcount : 0 + 8 ≤ (s.append (patternBytes a ++ patternBytes b)).count := Nat.le_add_left ..
  obtain ⟨hfirst, hsecond⟩ := streamWord_append_patternBytes hs hempty hcap a b
  exact ⟨_, exec_rbWrite_of_fits hroom, exec_decPfN_of_le hcount hfirst hsecond, exec_decPfS_of_le hcount hfirst hsecond⟩

/-- Settles O33: of the outcomes of DMX.DECODE the one for groups that are there, whose elements hold the items at their stream
offsets. -/
theorem decodeFillsOutputAndConsumes : Obligations.DecodeFillsOutputAndConsumes := by
  unfold Obligations.DecodeFillsOutputAndConsumes
  rintro n s _ _ _ _ rfl rfl rfl rfl hfmt hn
  have hf : fmtField s.cfgr ≠ 0#2 := mt (fmtField_eq_zero s.cfgr).1 hfmt
  rw [← groupSize_eq s.cfgr hfmt] at hn ⊢
  obtain ⟨o, ho, hin, hout, _⟩ := decodeSamples_ok hf hn s.out
  rw [← selOf_eq, ← bps_fmtField s.cfgr hfmt, ← nchField_toNat]
  refine ⟨o, execDmxDecode_eq hf hn ho, fun ch smp hch hsmp => ?item, hout⟩
  case item =>
    obtain ⟨v, hv, hget⟩ := hin ch smp hch hsmp
    obtain ⟨d, hd, he⟩ := exists_decoder_of_decodeItem hf hv
    exact ⟨d, v, hd, he, hget⟩

/-- Settles O26: `SEL` and the stream offset are the whole encoding of a decoder's call, and both bytes are read. -/
theorem packedByteDecodes : Obligations.PackedByteDecodes := by
  unfold Obligations.PackedByteDecodes
  exact fun p s => ⟨decodeInvertsEncode (.decPbN p) rfl, decodeInvertsEncode (.decPbS p) rfl, fun h =>
    ⟨exec_decPbN_of_le h, exec_decPbS_of_le h⟩⟩

/-- Settles O29: the formula is the definition, and the table lists its value at each of the sixteen codes. -/
theorem nibbleMapIsTheTable : Obligations.NibbleMapIsTheTable := by
  unfold Obligations.NibbleMapIsTheTable
  exact ⟨fun _ => rfl, nib_eq_toInt, by decide⟩

end Sys2Proof.Machine
end

section
/-! PROOFS. The consumer adapter family: when CA.PRODUCE is refused, delivers nothing or delivers whole groups, what it then
answers and takes, and that `SESSION` has no part in it. -/

namespace Sys2Proof.Machine

/-! ### How many groups can be delivered -/

/-- Whole groups only: those that can be delivered are buffered (R197, R200). -/
theorem deliverable_mul_groupSize_le (s : State) (n : Nat) : deliverable s n * groupSize s.cfgr ≤ s.count :=
  (Nat.mul_le_mul_right _ (Nat.min_le_right ..)).trans (Nat.div_mul_le_self ..)

theorem deliverable_eq_zero {s : State} {n : Nat} (h : n = 0 ∨ s.count < groupSize s.cfgr) : deliverable s n = 0 := by
  rcases h with rfl | hfew
  · exact Nat.zero_min _
  · rw [deliverable, Nat.div_eq_of_lt hfew, Nat.min_zero]

/-- A group of at least one byte has a format. -/
theorem fmtField_ne_zero_of_groupSize {w : Word} (h : groupSize w ≠ 0) : fmtField w ≠ 0#2 :=
  fun hf => h (by rw [groupSize, hf, show bps 0#2 = 0 from rfl, Nat.zero_mul])

/-- Where something can be delivered, a group has at least one byte. -/
theorem groupSize_ne_zero_of_deliverable {s : State} {n : Nat} (h : deliverable s n ≠ 0) : groupSize s.cfgr ≠ 0 :=
  fun hg => h (by rw [deliverable, hg, Nat.div_zero, Nat.min_zero])

/-- The format of a configured block is one, as a number (R206). -/
theorem Inv.format_ne_zero {s : State} (hs : Inv s) (hcfg : s.configured = true) : s.cfgr.toNat / 2 ^ 16 % 4 ≠ 0 :=
  mt (fmtField_eq_zero s.cfgr).2 (hs.configuredLegal hcfg).1

/-! ### CA.PRODUCE in each of its cases -/

section
variable {n : Word} {s : State}

/-- Not configured: refused (R201). -/
theorem exec_caProduce_of_not_configured (hcfg : s.configured = false) :
    exec (.caProduce n) s = .next (s.answer (.refused .notConfigured)) := by
  rw [exec, execCaProduce, if_pos hcfg]; rfl

/-- Nothing to deliver: the answer is 0 (R198). -/
theorem exec_caProduce_of_deliverable_eq_zero (hcfg : s.configured = true) (hg : groupSize s.cfgr ≠ 0)
    (hnone : deliverable s n.toNat = 0) : exec (.caProduce n) s = .next (s.answer (.word 0)) := by
  rw [exec, execCaProduce, if_neg (by simp [hcfg]), if_neg hg, if_pos hnone]; rfl

/-- A decode of groups that are there, once its samples are known. -/
theorem demux_of_decodeSamples {m : Nat} {o : OutSpace} (hf : fmtField s.cfgr ≠ 0#2) (hm : m * groupSize s.cfgr ≤ s.count)
    (ho : decodeSamples s m s.out = .ok o) : demux s m = .ok ((s.withOut o).advance (m * groupSize s.cfgr)) := by
  rw [demux, if_neg hf, if_neg (Nat.not_lt.2 hm), ho]
  exact if_neg (Nat.not_lt.2 hm)

/-- Something to deliver: the samples decoded go to `OUT`, exactly their bytes are taken, and the answer is their number (R195). -/
theorem exec_caProduce_of_decodeSamples {o : OutSpace} (hcfg : s.configured = true) (hsome : deliverable s n.toNat ≠ 0)
    (ho : decodeSamples s (deliverable s n.toNat) s.out = .ok o) :
    exec (.caProduce n) s = .next (((s.withOut o).advance (deliverable s n.toNat * groupSize s.cfgr)).answer
      (.word (BitVec.ofNat 32 (deliverable s n.toNat)))) := by
  have hg : groupSize s.cfgr ≠ 0 := groupSize_ne_zero_of_deliverable hsome
  rw [exec, execCaProduce, if_neg (by simp [hcfg]), if_neg hg, if_neg hsome,
    demux_of_decodeSamples (fmtField_ne_zero_of_groupSize hg) (deliverable_mul_groupSize_le ..) ho]
  rfl

/-- What can be delivered decodes: each element asked for holds its item, and no other is written (R183, R186, R199). -/
theorem decodeSamples_deliverable (hsome : deliverable s n.toNat ≠ 0) :
    ∃ o, decodeSamples s (deliverable s n.toNat) s.out = .ok o ∧
      (∀ ch smp, ch < (nchField s.cfgr).toNat → smp < deliverable s n.toNat →
        ∃ v, decodeItem s (itemOffset s ch smp) = .ok v ∧ outGet o ch smp = some v) ∧
      (∀ ch smp, ch < 8 → (nchField s.cfgr).toNat ≤ ch ∨ deliverable s n.toNat ≤ smp →
        outGet o ch smp = outGet s.out ch smp) := by
  have hf : fmtField s.cfgr ≠ 0#2 := fmtField_ne_zero_of_groupSize (groupSize_ne_zero_of_deliverable hsome)
  obtain ⟨o, ho, hin, hout, _⟩ := decodeSamples_ok hf (deliverable_mul_groupSize_le s n.toNat) s.out
  exact ⟨o, ho, hin, hout⟩

/-- Configured, CA.PRODUCE answers the number of groups it can deliver, 0 among them, and takes their bytes (R195, R198). -/
theorem exec_caProduce_answers (hcfg : s.configured = true) (hg : groupSize s.cfgr ≠ 0) :
    ∃ t, exec (.caProduce n) s = .next t ∧ t.resp = .word (BitVec.ofNat 32 (deliverable s n.toNat)) ∧
      t.count = s.count - deliverable s n.toNat * groupSize s.cfgr := by
  by_cases hd : deliverable s n.toNat = 0
  · exact ⟨_, exec_caProduce_of_deliverable_eq_zero hcfg hg hd, by rw [hd]; rfl, by rw [hd, Nat.zero_mul]; rfl⟩
  · obtain ⟨o, ho, _⟩ := decodeSamples_deliverable hd
    exact ⟨_, exec_caProduce_of_decodeSamples hcfg hd ho, rfl, rfl⟩

end

/-! ### `SESSION` is no part of what CA.PRODUCE reads (R202) -/

theorem readsAlike_withSession (m : Nat) (s : State) (v : Session) : ReadsAlike m s (s.withSession v) where
  cfgr := rfl
  read _ _ := rfl

/-- In either lifecycle state CA.PRODUCE does the same. -/
theorem exec_caProduce_withSession {n : Word} {s t : State} (h : exec (.caProduce n) s = .next t) (v : Session) :
    exec (.caProduce n) (s.withSession v) = .next (t.withSession v) := by
  rcases execCaProduce_cases n s with ⟨hcfg, _⟩ | ⟨_, _, e⟩ | ⟨hcfg, hg, hnone, _⟩ | ⟨hcfg, _, hsome, _⟩
  · rw [exec_caProduce_of_not_configured hcfg] at h
    cases h
    exact exec_caProduce_of_not_configured (s := s.withSession v) hcfg
  · rw [exec, e] at h
    cases h
  · rw [exec_caProduce_of_deliverable_eq_zero hcfg hg hnone] at h
    cases h
    exact exec_caProduce_of_deliverable_eq_zero (s := s.withSession v) hcfg hg hnone
  · obtain ⟨o, ho, _⟩ := decodeSamples_deliverable hsome
    rw [exec_caProduce_of_decodeSamples hcfg hsome ho] at h
    cases h
    have ho' : decodeSamples (s.withSession v) (deliverable s n.toNat) s.out = .ok o :=
      ((readsAlike_withSession _ s v).decodeSamples_eq le_rfl s.out).trans ho
    exact exec_caProduce_of_decodeSamples (s := s.withSession v) hcfg hsome ho'

/-! ### The obligations -/

/-- Settles O35: the samples decoded are those of the groups that can be delivered, and the decoder that `SEL` names answers
each of them. -/
theorem produceDeliversWholeGroups : Obligations.ProduceDeliversWholeGroups := by
  unfold Obligations.ProduceDeliversWholeGroups
  rintro n s _ _ _ _ _ _ rfl rfl rfl rfl rfl hcfg hfmt _ rfl hd
  have hf : fmtField s.cfgr ≠ 0#2 := mt (fmtField_eq_zero s.cfgr).1 hfmt
  rw [← groupSize_eq s.cfgr hfmt] at hd ⊢
  have hsome : deliverable s n.toNat ≠ 0 := Nat.one_le_iff_ne_zero.1 hd
  obtain ⟨o, ho, hin, hout⟩ := decodeSamples_deliverable hsome
  rw [← selOf_eq, ← bps_fmtField s.cfgr hfmt, ← nchField_toNat]
  refine ⟨o, exec_caProduce_of_decodeSamples hcfg hsome ho, fun ch smp hch hsmp => ?item, hout⟩
  case item =>
    obtain ⟨v, hv, hget⟩ := hin ch smp hch hsmp
    obtain ⟨d, hdec, he⟩ := exists_decoder_of_decodeItem hf hv
    exact ⟨d, v, hdec, he, hget⟩

/-- Settles O36: either premise leaves no group to deliver. -/
theorem produceWithNothingAnswersZero : Obligations.ProduceWithNothingAnswersZero := by
  unfold Obligations.ProduceWithNothingAnswersZero
  rintro n s _ _ _ rfl rfl rfl hs hcfg hnothing
  rw [← groupSize_eq s.cfgr (hs.format_ne_zero hcfg)] at hnothing
  have hnone : deliverable s n.toNat = 0 := deliverable_eq_zero (hnothing.imp_left (congrArg BitVec.toNat))
  exact exec_caProduce_of_deliverable_eq_zero hcfg (Nat.one_le_iff_ne_zero.1 (groupSize_pos hs hcfg)) hnone

/-- Settles O38: fewer whole groups than requested are all delivered, and the bytes left are the remainder by the group size. -/
theorem produceNeverOverReads : Obligations.ProduceNeverOverReads := by
  unfold Obligations.ProduceNeverOverReads
  rintro n s _ _ _ _ _ rfl rfl rfl rfl hs hcfg rfl hfew
  rw [← groupSize_eq s.cfgr (hs.format_ne_zero hcfg)] at hfew ⊢
  have hpos : 1 ≤ groupSize s.cfgr := groupSize_pos hs hcfg
  have hall : deliverable s n.toNat = s.count / groupSize s.cfgr := Nat.min_eq_right hfew.le
  obtain ⟨t, ht, hresp, hcount⟩ := exec_caProduce_answers (n := n) hcfg (Nat.one_le_iff_ne_zero.1 hpos)
  have hv := toNat_ofNat_deliverable s n
  rw [hall] at hresp hcount hv
  have hleft : t.count < groupSize s.cfgr :=
    calc t.count = s.count % groupSize s.cfgr := by rw [hcount, Nat.mul_comm, Nat.mod_eq_sub_mul_div]
      _ < groupSize s.cfgr := Nat.mod_lt _ hpos
  exact ⟨t, _, ht, hresp, hv, hcount, hleft⟩

/-- Settles O39: in both lifecycle states the same groups can be delivered and the same bytes are read. -/
theorem produceIgnoresSession : Obligations.ProduceIgnoresSession := by
  unfold Obligations.ProduceIgnoresSession
  exact fun _ _ _ v h => exec_caProduce_withSession h v

/-- Settles O37: `CONFIGURED` is the first test of CA.PRODUCE. -/
theorem produceUnconfiguredIsRefused : Obligations.ProduceUnconfiguredIsRefused := by
  unfold Obligations.ProduceUnconfiguredIsRefused
  exact fun _ _ hcfg => exec_caProduce_of_not_configured hcfg

end Sys2Proof.Machine
end

section
/-! PROOFS. The capture session family: CS.CFG, CS.START and CS.STOP test by test, CS.FRAME as a parse and a write, CS.STATUS, the
lifecycle table, and what a stop guarantees over every run after it. -/

namespace Sys2Proof.Machine

/-! ### CS.CFG, CS.START and CS.STOP in each of their cases -/

/-- The channel count test of CS.CFG by the numbers of its fields (R205 line 5, R121). -/
theorem badChannelCount_iff (arg : Word) : badChannelCount arg = true ↔
    arg.toNat / 2 ^ 20 % 8 < 1 ∨ 4 < arg.toNat / 2 ^ 20 % 8 ∨ arg.toNat / 2 ^ 24 % 8 < arg.toNat / 2 ^ 20 % 8 := by
  rw [← nchField_toNat, ← nwiredField_toNat]
  simp only [badChannelCount, Config.nchMin, Config.nchMax, Bool.or_eq_true, decide_eq_true_eq, or_assoc]

/-- CS.CFG by the first of its tests that holds (R205, R208). -/
theorem exec_csCfg (arg : Word) (s : State) : exec (.csCfg arg) s = .next (
    if s.session = .capturing then s.answer (.refused .notIdle)
    else if fmtField arg = 0#2 then s.clearConfigured.answer (.configurationError .unknownFormat)
    else if badChannelCount arg = true then s.clearConfigured.answer (.configurationError .channelCount)
    else (s.configure arg).answer .ok) := by
  rw [exec]
  rcases execCsCfg_cases arg s with ⟨hrun, e⟩ | ⟨hidle, hfmt, e⟩ | ⟨hidle, hfmt, hch, e⟩ | ⟨hidle, hfmt, hch, e⟩ <;> rw [e]
  · simp [raise, hrun]
  · simp [raise, hidle, hfmt]
  · simp [raise, hidle, hfmt, hch]
  · simp [reply, hidle, hfmt, hch]

/-- CS.START by the first of its tests that holds (R209, R210, R211). -/
theorem exec_csStart (s : State) : exec .csStart s = .next (
    if s.configured = false then s.answer (.refused .notConfigured)
    else if s.session = .capturing then s.answer (.refused .notIdle)
    else if s.startEnv = .devFail then s.answer (.startupError .deviceOpen)
    else if s.startEnv = .bindFail then s.answer (.startupError .socketBind)
    else (s.withSession .capturing).answer .ok) := by
  rw [exec]
  rcases execCsStart_cases s with
    ⟨hcfg, e⟩ | ⟨hcfg, hrun, e⟩ | ⟨hcfg, hidle, henv, e⟩ | ⟨hcfg, hidle, henv, e⟩ | ⟨hcfg, hidle, henv, e⟩ <;> rw [e]
  · simp [raise, hcfg]
  · simp [raise, hcfg, hrun]
  · simp [raise, hcfg, hidle, henv]
  · simp [raise, hcfg, hidle, henv]
  · simp [reply, hcfg, hidle, henv]

/-- CS.STOP in Idle, without the join, and with it (R212, R214). -/
theorem exec_csStop (s : State) : exec .csStop s = .next (
    if s.session = .idle then s.answer (.refused .notCapturing)
    else if s.stopEnv = .joinFail then s.setFault.answer .shutdownError
    else (s.withSession .idle).answer .ok) := by
  rw [exec]
  rcases execCsStop_cases s with ⟨hidle, e⟩ | ⟨hrun, henv, e⟩ | ⟨hrun, henv, e⟩ <;> rw [e]
  · simp [raise, hidle]
  · simp [raise, hrun, henv]
  · simp [reply, hrun, henv]

/-! ### CS.FRAME as a parse and a write -/

/-- In Idle a frame is discarded with no effect (R216). -/
theorem exec_csFrame_of_idle {frame : List Byte} {s : State} (hidle : s.session = .idle) :
    exec (.csFrame frame) s = .next (s.answer .none) := by
  rw [exec, execCsFrame, if_pos hidle]; rfl

/-- A frame that offers a payload does what RB.WRITE of that payload does, fitting or not, and answers nothing (R215, R218). -/
theorem exec_csFrame_of_framePayload {frame bytes : List Byte} {s : State} (hp : framePayload frame s = some bytes) :
    ∃ t, exec (.rbWrite bytes) s = .next t ∧ exec (.csFrame frame) s = .next (t.answer .none) :=
  ⟨_, rfl, by rw [exec, execCsFrame_offered, hp]; rfl⟩

/-! ### The lifecycle table (R222) -/

/-- A read moves neither `SESSION` nor `CONFIGURED` (R75). -/
theorem lifecycleNext_of_isRead {i : Instr} (h : isRead i = true) (s : State) :
    lifecycleNext i s = (s.session, s.configured) := by
  cases i with
  | csCfg _ | csStart | csStop | csReset => cases h
  | _ => rfl

/-- An operation that offers a payload moves neither `SESSION` nor `CONFIGURED` (R31). -/
theorem lifecycleNext_of_offered {i : Instr} {s : State} {bytes : List Byte} (ho : offered i s = some bytes) :
    lifecycleNext i s = (s.session, s.configured) := by
  cases i with
  | rbWrite _ | csFrame _ => rfl
  | _ => cases ho

/-- Each effect moves `SESSION` and `CONFIGURED` as the table lists for its operation. -/
theorem OpEffect.lifecycle_eq {i : Instr} {s u : State} {r : Response} (h : OpEffect s i r u) :
    (u.session, u.configured) = lifecycleNext i s := by
  cases h with
  | read _ hread => exact (lifecycleNext_of_isRead hread s).symm
  | overflow _ ho _ | append _ ho _ => exact (lifecycleNext_of_offered ho).symm
  | cfgRefused hrun => simp [lifecycleNext, hrun]
  | cfgRejected _ hidle hbad => rcases hbad with hfmt | hch <;> simp [lifecycleNext, *]
  | configure hidle hfmt hch => simp [lifecycleNext, hidle, hfmt, hch]
  | startRefused _ hno => rcases hno with hcfg | hrun <;> simp [lifecycleNext, *]
  | startFailed _ _ henv => simp [lifecycleNext, henv]
  | start hidle hcfg henv => simp [lifecycleNext, hidle, hcfg, henv]
  | stopRefused hidle => simp [lifecycleNext, hidle]
  | stopFailed _ henv => simp [lifecycleNext, henv]
  | stop hrun henv => simp [lifecycleNext, hrun, henv]
  | _ => rfl

/-! ### What a stop guarantees (R213, R216) -/

/-- In Idle only the test bench's RB.WRITE offers a payload: a frame is discarded (R216). -/
theorem offered_of_idle {i : Instr} {s : State} (hidle : s.session = .idle) (hwrite : ∀ bytes, i ≠ .rbWrite bytes) :
    offered i s = none := by
  cases i with
  | rbWrite bytes => exact absurd rfl (hwrite bytes)
  | csFrame frame => exact if_pos hidle
  | _ => rfl

/-- Consuming leaves an end part of the readable bytes (R157). -/
theorem stream_advance_suffix (s : State) (len : Nat) : stream (s.advance len) <:+ stream s :=
  stream_advance s len ▸ List.drop_suffix ..

/-- In Idle, the effects of every operation but CS.START and RB.WRITE keep Idle, and of the readable bytes they leave an end
part. -/
theorem OpEffect.idle_and_suffix {i : Instr} {s u : State} {r : Response} (h : OpEffect s i r u) (hidle : s.session = .idle)
    (hstart : i ≠ .csStart) (hwrite : ∀ bytes, i ≠ .rbWrite bytes) : u.session = .idle ∧ stream u <:+ stream s := by
  cases h with
  | overflow _ ho _ | append _ ho _ => rw [offered_of_idle hidle hwrite] at ho; cases ho
  | consume _ => exact ⟨hidle, stream_advance_suffix s _⟩
  | decode o _ | produce o _ _ => exact ⟨hidle, stream_advance_suffix (s.withOut o) _⟩
  | configure _ _ _ => exact ⟨hidle, List.nil_suffix⟩
  | reset => exact ⟨rfl, List.nil_suffix⟩
  | start _ _ _ => exact absurd rfl hstart
  | stop _ _ => exact ⟨rfl, List.suffix_rfl⟩
  | _ => exact ⟨hidle, List.suffix_rfl⟩

/-- Idle, and nothing queued that starts a capture or writes on its own. -/
structure Stopped (s : State) : Prop where
  idle : s.session = .idle
  queued : ∀ r, r ∈ s.queue → noStartNoWrite r

/-- A stopped block stays stopped at every step, and of the readable bytes the step leaves an end part. -/
theorem Stopped.of_step {s t : State} (hs : Stopped s) (h : step s = .next t) : Stopped t ∧ stream t <:+ stream s := by
  rcases step_cases h with ⟨_, rfl⟩ | ⟨r, rest, hqueue, hr⟩
  · exact ⟨hs, List.suffix_rfl⟩
  have hrest : ∀ r', r' ∈ rest → noStartNoWrite r' := fun r' hr' => hs.queued r' (by simp [hqueue, hr'])
  rcases hr with ⟨i, hdec, _, hi⟩ | ⟨_, _, rfl⟩ | ⟨op, _, _, rfl⟩
  · obtain ⟨hstart, hwrite⟩ := hs.queued r (by simp [hqueue]) i hdec
    have hq : t.queue = rest := exec_queue hi
    obtain ⟨u, a, hu, rfl⟩ := exec_opEffect hi
    obtain ⟨hidle, hsuffix⟩ := hu.idle_and_suffix hs.idle hstart hwrite
    exact ⟨⟨hidle, by rwa [hq]⟩, hsuffix⟩
  · exact ⟨hs, List.suffix_rfl⟩
  · exact ⟨⟨hs.idle, hrest⟩, List.suffix_rfl⟩

/-- A run of at least one step is a step and the run after it. -/
theorem run_succ {k : Nat} {s t : State} (h : Host.Core.run core (k + 1) s = .next t) :
    ∃ u : State, step s = .next u ∧ Host.Core.run core k u = .next t := by
  simp only [Host.Core.run] at h
  split at h
  · next u hu => exact ⟨u, hu, h⟩
  · cases h
  · cases h

/-- A stopped block stays stopped over every run, and of the readable bytes the run leaves an end part. -/
theorem Stopped.of_run {k : Nat} {s t : State} (hs : Stopped s) (h : Host.Core.run core k s = .next t) :
    Stopped t ∧ stream t <:+ stream s := by
  induction k generalizing s with
  | zero => cases h; exact ⟨hs, List.suffix_rfl⟩
  | succ k ih =>
    obtain ⟨u, hu, hrun⟩ := run_succ h
    obtain ⟨hstopped, hstep⟩ := hs.of_step hu
    obtain ⟨hend, hrest⟩ := ih hstopped hrun
    exact ⟨hend, hrest.trans hstep⟩

/-! ### The obligations -/

/-- Settles O40: the tests of CS.CFG on the fields of its argument are those on the numbers. -/
theorem configureFollowsRule : Obligations.ConfigureFollowsRule := by
  unfold Obligations.ConfigureFollowsRule
  refine ⟨fun b1 b2 b3 b4 => ?command, ?tests⟩
  case command => exact decode_eq_ok.2 (encodeW_argOfBytes 0x50 b1 b2 b3 b4 ▸ .formatW rfl _)
  case tests =>
    rintro arg s _ _ _ rfl rfl rfl
    simp only [exec_csCfg, fmtField_eq_zero, badChannelCount_iff]
    rfl

/-- Settles O43: in Idle a frame is discarded, and in Capturing it offers its payload just where it is acceptable. -/
theorem frameIsParseThenWrite : Obligations.FrameIsParseThenWrite := by
  unfold Obligations.FrameIsParseThenWrite
  refine fun frame s => ⟨fun hidle => ?idle, fun _ hna => ?notApplicable, fun hrun hacc => ?accepted⟩
  case idle => exact exec_csFrame_of_idle hidle
  case notApplicable => exact exec_csFrame_of_not_acceptable hna
  case accepted => exact exec_csFrame_of_framePayload (framePayload_of_acceptable hrun hacc)

/-- Settles O51: by the effects, each of which moves the two flags as the table lists. -/
theorem lifecycleFollowsTable : Obligations.LifecycleFollowsTable := by
  unfold Obligations.LifecycleFollowsTable
  intro i s t h
  obtain ⟨u, r, hu, rfl⟩ := exec_opEffect h
  exact hu.lifecycle_eq

/-- Settles O58: by induction on the run, each step of which keeps a stopped block stopped. -/
theorem noWritesAfterStop : Obligations.NoWritesAfterStop := by
  unfold Obligations.NoWritesAfterStop
  intro k s t hidle hqueue h
  obtain ⟨hend, hsuffix⟩ := Stopped.of_run ⟨hidle, hqueue⟩ h
  exact ⟨hend.idle, hsuffix⟩

/-- Settles O41: the word is the layout of CS.START, and its tests are made in the order of R209. -/
theorem startFollowsRule : Obligations.StartFollowsRule := by
  unfold Obligations.StartFollowsRule
  exact ⟨decodeInvertsEncode .csStart rfl, exec_csStart⟩

/-- Settles O42: the word is the layout of CS.STOP, which has the three outcomes of R212. -/
theorem stopFollowsRule : Obligations.StopFollowsRule := by
  unfold Obligations.StopFollowsRule
  exact ⟨decodeInvertsEncode .csStop rfl, exec_csStop⟩

/-- Settles O47: both operations answer register 1, and the word they share is the one CS.STATUS is written as. -/
theorem statusIsRegisterOne : Obligations.StatusIsRegisterOne := by
  unfold Obligations.StatusIsRegisterOne
  exact ⟨fun s => ⟨registerWord s 1, rfl, rfl⟩, decodeInvertsEncode .csStatus rfl⟩

end Sys2Proof.Machine
end

section
/-! PROOFS. The exceptions family: the codes of errors and refusals, that every operation with a port answers, and that no request
of a role ends in a model-only fault. -/

namespace Sys2Proof.Machine

/-! ### Operations with a port answer -/

/-- CS.FRAME answers in every state, whether the frame is discarded, counted as an overflow or stored (R215). -/
theorem exec_csFrame_answers (frame : List Byte) (s : State) : ∃ t, exec (.csFrame frame) s = .next t := by
  rw [exec, execCsFrame_offered]
  cases framePayload frame s with
  | none => exact ⟨_, rfl⟩
  | some bytes => exact ⟨_, rfl⟩

/-- CA.PRODUCE answers under the invariant: not configured it is refused, and configured it has a group size (R201, R206). -/
theorem exec_caProduce_of_inv {s : State} (hs : Inv s) (n : Word) : ∃ t, exec (.caProduce n) s = .next t := by
  rcases Bool.eq_false_or_eq_true s.configured with hcfg | hcfg
  · obtain ⟨t, ht, _⟩ := exec_caProduce_answers (n := n) hcfg (Nat.one_le_iff_ne_zero.1 (groupSize_pos hs hcfg))
    exact ⟨t, ht⟩
  · exact ⟨_, exec_caProduce_of_not_configured hcfg⟩

/-! ### What a role's request is read as -/

/-- Only the call of a decoder can name a decoder that does not exist: a command names its operation by `OP` (R110, R116). -/
theorem decodeCommand_ne_noDecoder (bytes : List Byte) (sel : BitVec 3) : decodeCommand bytes ≠ .error (.noDecoder sel) := by
  cases bytes with
  | nil => nofun
  | cons op rest =>
    rw [decodeCommand]
    split
    · nofun
    · rw [decodeZ.eq_def]; split <;> nofun
    · rw [decodeW.eq_def]; split <;> nofun
    · rw [decodeS.eq_def]
      split
      · split_ifs <;> nofun
      · nofun

/-- A wire that selects no decoder is kept to the test bench (R21, R120). -/
theorem benchOnly_of_noDecoder {w : Wire} {sel : BitVec 3} (h : decode w = .error (.noDecoder sel)) : benchOnly w = true := by
  cases w with
  | command bytes => exact absurd h (decodeCommand_ne_noDecoder bytes sel)
  | decoder _ _ => rfl

/-- A role's request is an operation with a port, or is rejected for another reason than a decoder that does not exist. -/
theorem fetch_of_role {r : Request} (hrole : r.agent ≠ .testBench) :
    (∃ i, fetch r = .ok i ∧ isExternal i = true) ∨ (∃ e, fetch r = .error e ∧ ∀ sel, e ≠ .unread (.noDecoder sel)) := by
  rcases fetch_cases r with ⟨_, _, hf⟩ | ⟨hport, hread⟩
  · exact .inr ⟨_, hf, nofun⟩
  have hopen : benchOnly r.wire = false := hport.resolve_left hrole
  rcases hread with ⟨i, hdec, hf⟩ | ⟨e, hdec, hf⟩
  · exact .inl ⟨i, hf, by simpa [benchOnly_of_decode hdec] using hopen⟩
  · refine .inr ⟨_, hf, fun sel he => ?_⟩
    cases he
    simp [benchOnly_of_noDecoder hdec] at hopen

/-- A rejection faults only for a decoder that does not exist (R120, R247). -/
theorem rejectRequest_ne_fault {waiting taken : State} {e : Rejection} (he : ∀ sel, e ≠ .unread (.noDecoder sel)) (f : Fault) :
    rejectRequest waiting taken e ≠ .fault f := by
  cases e with
  | internalOnly => nofun
  | unread e =>
    cases e with
    | noDecoder sel => exact absurd rfl (he sel)
    | _ => nofun

/-! ### The obligations -/

/-- Settles O12: CS.FRAME and CA.PRODUCE by their outcomes, the lifecycle operations by their tests, and the rest are reads and
CS.RESET, which reply at once. -/
theorem externalOperationsAlwaysAnswer : Obligations.ExternalOperationsAlwaysAnswer := by
  unfold Obligations.ExternalOperationsAlwaysAnswer
  intro i s hs hport
  cases i with
  | csFrame frame => exact exec_csFrame_answers frame s
  | caProduce n => exact exec_caProduce_of_inv hs n
  | csCfg arg => exact ⟨_, exec_csCfg arg s⟩
  | csStart => exact ⟨_, exec_csStart s⟩
  | csStop => exact ⟨_, exec_csStop s⟩
  | rbAvail | rbOvf | csStatus | csReset => exact ⟨_, rfl⟩
  | csRdreg _ => exact ⟨_, rfl⟩
  | _ => cases hport

/-- Settles O13: a role's request is an operation with a port, which answers, or a rejection that is no fault. -/
theorem portRequestsNeverFault : Obligations.PortRequestsNeverFault := by
  unfold Obligations.PortRequestsNeverFault
  intro s r rest f hs hwf hqueue hrole
  rw [step, hqueue]
  rcases fetch_of_role hrole with ⟨i, hf, hport⟩ | ⟨e, hf, he⟩ <;> simp only [hf]
  · have htake : Inv (s.take r rest) := hs.take (hwf r (by simp [hqueue])) rest
    obtain ⟨t, ht⟩ := externalOperationsAlwaysAnswer i _ htake hport
    simp [ht]
  · exact rejectRequest_ne_fault he f

/-- Settles O8: each line of the statement is a row of the two tables of codes. -/
theorem responseCodesFollowTable : Obligations.ResponseCodesFollowTable := by
  unfold Obligations.ResponseCodesFollowTable
  and_intros <;> rfl

end Sys2Proof.Machine
end

section
/-! PROOFS. The reset and hazards family: what the end of a run says of its operations, and that the block is quiet in it. -/

namespace Sys2Proof.Machine

/-! ### The operations whose last answers end a run (R282) -/

theorem isStop_iff (i : Instr) : isStop i = true ↔ i = .csStop := beq_iff_eq

theorem isProduce_iff (i : Instr) : isProduce i = true ↔ ∃ n, i = .caProduce n := by
  cases i <;> simp [isProduce]

/-- A last CS.STOP answer is the answer of a CS.STOP in the run. -/
theorem exists_csStop_of_lastAnswer {a : Agent} {events : List Event} {r : Response}
    (h : lastAnswer a isStop events = some r) : ∃ e, e ∈ events ∧ e.agent = a ∧ e.op = .csStop ∧ e.answer = r := by
  obtain ⟨e, hmem, hagent, hkind, hanswer⟩ := lastAnswer_mem h
  exact ⟨e, hmem, hagent, (isStop_iff e.op).1 hkind, hanswer⟩

/-- A last CA.PRODUCE answer is the answer of a CA.PRODUCE in the run. -/
theorem exists_caProduce_of_lastAnswer {a : Agent} {events : List Event} {r : Response}
    (h : lastAnswer a isProduce events = some r) :
    ∃ e n, e ∈ events ∧ e.agent = a ∧ e.op = .caProduce n ∧ e.answer = r := by
  obtain ⟨e, hmem, hagent, hkind, hanswer⟩ := lastAnswer_mem h
  obtain ⟨n, hop⟩ := (isProduce_iff e.op).1 hkind
  exact ⟨e, n, hmem, hagent, hop, hanswer⟩

/-! ### The state at the end of a run -/

/-- With less than one group buffered CA.PRODUCE answers 0; fewer bytes than a group also say that the group has bytes (R198). -/
theorem exec_caProduce_of_count_lt {n : Word} {s : State} (hcfg : s.configured = true) (hfew : s.count < groupSize s.cfgr) :
    exec (.caProduce n) s = .next (s.answer (.word 0)) :=
  exec_caProduce_of_deliverable_eq_zero hcfg (Nat.ne_zero_of_lt hfew) (deliverable_eq_zero (.inr hfew))

/-! ### The obligations -/

/-- Settles O57: the two answers are of operations in the run, and in the state reached Idle discards every frame and less than one
group is left to produce. The end of a run tests that state itself, so the steps that led to it play no part in the last two. -/
theorem endedRunIsQuiet : Obligations.EndedRunIsQuiet := by
  unfold Obligations.EndedRunIsQuiet
  rintro _ _ t events _ _ _ ⟨hstop, hidle, _, hproduce, hfew⟩
  refine ⟨?stopped, ?drained, fun frame => ?frame, fun hcfg n => ?produce⟩
  case stopped => exact exists_csStop_of_lastAnswer hstop
  case drained => exact exists_caProduce_of_lastAnswer hproduce
  case frame => exact exec_csFrame_of_idle hidle
  case produce => exact exec_caProduce_of_count_lt hcfg hfew

end Sys2Proof.Machine
end

section
/-! PROOFS. The step on a request that reads as an operation, the word of the opcode table placed for it, and the Packed4Bit
decoders by nibbles. -/

namespace Sys2Proof.Machine

/-! ### The step on a request that reads as an operation -/

section
variable {s : State} {r : Request} {rest : List Request} {i : Instr}

/-- An operation with a port, or one a test bench issued, runs with its request in hand (R21, R74). -/
theorem step_of_decode (hq : s.queue = r :: rest) (hd : decode r.wire = .ok i)
    (ha : r.agent = .testBench ∨ isExternal i = true) : step s = exec i (s.take r rest) := by
  rw [step, hq]
  simp only [fetch_of_decode hd ha]

/-- An internal operation that no test bench issued is kept from the block (log 25). -/
theorem fetch_of_internal (hd : decode r.wire = .ok i) (ha : r.agent ≠ .testBench) (hi : isExternal i = false) :
    fetch r = .error .internalOnly := by
  have hbench : benchOnly r.wire = true := by rw [benchOnly_of_decode hd, hi]; rfl
  rw [fetch, if_pos ⟨ha, hbench⟩]

/-- The step has no meaning for such an operation (log 25). -/
theorem step_of_internal (hq : s.queue = r :: rest) (hd : decode r.wire = .ok i) (ha : r.agent ≠ .testBench)
    (hi : isExternal i = false) : step s = .refused .internalOperation := by
  rw [step, hq]
  simp only [fetch_of_internal hd ha hi, rejectRequest]

end

/-! ### A word of the opcode table -/

/-- A table word that names an operation is laid out as a wire that reads as it (log 13). -/
theorem decode_wireOfTableWord {nbits w : Nat} {i : Instr} (h : decodeTableWord nbits w = some i) :
    decode (wireOfTableWord nbits w) = .ok i := by
  rw [decodeTableWord] at h
  cases hd : decode (wireOfTableWord nbits w) with
  | ok j => simpa [hd] using h
  | error e => simp [hd] at h

/-- Placing a word and taking its request changes only the issuer: the request brings the environment answers the state holds
and no arrays (log 3). -/
theorem take_tableRequest (s : State) (nbits w : Nat) :
    (s.withFetchWord nbits w).take (tableRequest s nbits w) s.queue = { s with issuer := .testBench } := rfl

/-! ### What the Packed4Bit decoders answer -/

section
variable {s : State} {p : Nat} {lo hi : BitVec 4}

/-- The item of a byte by its nibbles, non-swapped: the low one is real (R177, D15). -/
theorem itemP4N_of_nibbles (h : p + 1 ≤ s.count) (hb : streamByte s p = hi ++ lo) :
    itemP4N s p = .ok { re := f32OfInt (2 * lo.toInt + 1), im := f32OfInt (2 * hi.toInt + 1) } := by
  rw [itemP4N_ok h, hb, BitVec.extractLsb'_append_eq_right, BitVec.extractLsb'_append_eq_left, nib_eq_toInt, nib_eq_toInt]

/-- The item of a byte by its nibbles, swapped: the high one is real (R178, D15). -/
theorem itemP4S_of_nibbles (h : p + 1 ≤ s.count) (hb : streamByte s p = hi ++ lo) :
    itemP4S s p = .ok { re := f32OfInt (2 * hi.toInt + 1), im := f32OfInt (2 * lo.toInt + 1) } := by
  rw [itemP4S_ok h, hb, BitVec.extractLsb'_append_eq_right, BitVec.extractLsb'_append_eq_left, nib_eq_toInt, nib_eq_toInt]

theorem exec_decP4N_of_nibbles (h : p + 1 ≤ s.count) (hb : streamByte s p = hi ++ lo) :
    exec (.decP4N p) s = .next (s.answer (.sample
      { re := f32OfInt (2 * lo.toInt + 1), im := f32OfInt (2 * hi.toInt + 1) })) := by
  rw [exec, execDecP4N, itemP4N_of_nibbles h hb]; rfl

theorem exec_decP4S_of_nibbles (h : p + 1 ≤ s.count) (hb : streamByte s p = hi ++ lo) :
    exec (.decP4S p) s = .next (s.answer (.sample
      { re := f32OfInt (2 * hi.toInt + 1), im := f32OfInt (2 * lo.toInt + 1) })) := by
  rw [exec, execDecP4S, itemP4S_of_nibbles h hb]; rfl

end

/-! ### The obligations -/

/-- Settles O4: a request that reads as an operation runs, or is kept from the block for want of a port. That its operation is
well-formed plays no part. -/
theorem stepRunsDecodedOperation : Obligations.StepRunsDecodedOperation := by
  unfold Obligations.StepRunsDecodedOperation
  exact fun _ _ _ _ hq hd _ => ⟨step_of_decode hq hd, step_of_internal hq hd⟩

/-- Settles O5: the word's request stands at the head of the queue, is a test bench's, and reads as the operation. -/
theorem placedTableWordRuns : Obligations.PlacedTableWordRuns := by
  unfold Obligations.PlacedTableWordRuns
  intro s nbits w i h
  have hrun : step (s.withFetchWord nbits w) = exec i ((s.withFetchWord nbits w).take (tableRequest s nbits w) s.queue) :=
    step_of_decode rfl (decode_wireOfTableWord h) (.inl rfl)
  rw [hrun, take_tableRequest]

/-- Settles O27: `SEL` and the stream offset are the whole encoding of a decoder's call, and the item is made of the byte's
nibbles. -/
theorem packed4BitDecodes : Obligations.Packed4BitDecodes := by
  unfold Obligations.Packed4BitDecodes
  exact fun p s lo hi => ⟨decodeInvertsEncode (.decP4N p) rfl, decodeInvertsEncode (.decP4S p) rfl, fun h hb =>
    ⟨exec_decP4N_of_nibbles h hb, exec_decP4S_of_nibbles h hb⟩⟩

end Sys2Proof.Machine
end
